-- ==== Sys2Proof/Word.lean ====
section
/-! DEFINITION. Word types of the COMS-1 DES core (`spec/00_scope.md` rule R5: the widths; `spec/10_state.md` rule
R20: the registers that have them). Every one is an `abbrev` of a bit vector, so that the library's lemmas apply. -/

namespace Sys2Proof

/-- One byte of a key, a stream or a command word (rule R7). -/
abbrev Byte := BitVec 8

/-- `W_KEY`: a Key, 64 bits, parity positions included (rule R5). -/
abbrev Key := BitVec 64

/-- `W_BLOCK`: a ciphertext or plaintext Block (rule R5). -/
abbrev Block := BitVec 64

/-- `W_CD`: the value after PC-1, `C ‖ D` (rule R5). -/
abbrev KeyPair := BitVec 56

/-- `W_HALFKEY`: one of the halves C, D of the key-schedule register (rule R5). -/
abbrev HalfKey := BitVec 28

/-- `W_SUBKEY`: a round subkey (rule R5). -/
abbrev Subkey := BitVec 48

/-- `W_HALF`: a HalfBlock (rule R5). -/
abbrev HalfBlock := BitVec 32

/-- A 6-bit group, the input of one S-box (rule R133). -/
abbrev SixBits := BitVec 6

/-- A 4-bit S-box output (rule R143). -/
abbrev Nibble := BitVec 4

/-- `W_OP`: the opcode of a command word (rule R70). -/
abbrev Opcode := BitVec 8

/-- `W_ST`: the status code of a response word (rule R71). -/
abbrev StatusCode := BitVec 8

/-- `W_CMD`: a command word `op[71:64] ‖ arg[63:0]` (rule R70). -/
abbrev CmdWord := BitVec 72

/-- `W_RSP`: a response word `st[71:64] ‖ val[63:0]` (rule R71). -/
abbrev RspWord := BitVec 72

/-- The number of a round. The spec counts `r` in 1..16 (rule R112); the value here is `r - 1`, which is also the
count `rc` of rounds completed before that round (rule R24), so `RK[r]` is entry `r - 1` of the vector. -/
abbrev Round := Fin 16

/-- The RoundKeySet `[K1, ..., K16]` (rules R23, R115): subkey `Kr` at round number `r - 1`. -/
abbrev RoundKeySet := Vector Subkey 16

/-- A 4×16 S-box table: rows 0..3, columns 0..15 (rule R134). -/
abbrev SBox := Vector (Vector Nibble 16) 4

end Sys2Proof
end

