-- ==== Sys2Proof/Syntax.lean ====
section
/-! DEFINITION. The command set (`spec/30_encoding.md` rule R72), the status codes by name (rule R73) and the text
form of scripts as terms (rules R77, R78). -/

namespace Sys2Proof

/-- The two commands of the core, one constructor per row of `spec/opcode_table.json` (rule R72). Every other opcode
is reserved and is no instruction (rule R74). -/
inductive Instr where
  /-- `LDKEY key` (opcode `0x01`): derive the RoundKeySet of `key` into `RK[1..16]` and set `kv` (rule R120). -/
  | ldkey (key : Key)
  /-- `DECBLK block` (opcode `0x02`): decrypt one Block with `RK[1..16]` (rule R168). -/
  | decblk (block : Block)
  deriving DecidableEq, Repr

/-- The statuses of a response (rule R73); no other is ever produced. -/
inductive Status where
  /-- The command was carried out. -/
  | ok
  /-- A reserved opcode was accepted (rule R221). -/
  | illegalOp
  /-- A DECBLK was accepted while `kv = 0` (rule R222). -/
  | noKey
  deriving DecidableEq, Repr

/-- One item of a command script (rule R77). -/
inductive ScriptItem where
  /-- `LDKEY 0x…`: the command word `01 ‖ key`. -/
  | ldkey (key : Key)
  /-- `DECBLK 0x…`: the command word `02 ‖ block`. -/
  | decblk (block : Block)
  /-- `RAW 0x…`: any command word, given whole. -/
  | raw (word : CmdWord)
  /-- `RESET`: the host asserts `rst`; not a command word. -/
  | reset
  deriving DecidableEq, Repr

/-- The pseudo-instruction `DECSTREAM key, bytes` (rule R78): a whole run of the host driver. -/
structure DecStream where
  /-- The eight raw key bytes in stream order (rules R75, R201). -/
  key : Vector Byte 8
  /-- The ciphertext byte string. -/
  input : List Byte
  deriving DecidableEq, Repr

end Sys2Proof
end

