-- ==== Sys2Proof/WellFormed.lean ====
section
/-! DEFINITION. What the spec calls well-formed: permutation tables (`spec/40_bit_permutation.md` rule R91), S-boxes
(`spec/42_feistel_round.md` rule R146), instructions (`spec/30_encoding.md` rule R74), command words (rule R72) and
response words (rules R71, R73). -/

namespace Sys2Proof

/-- Rule R91: every entry of a table for input width `w` lies in `1..w`. This is the static obligation that takes the
place of the source's `ConfigurationError` (rule R223). -/
def tableWellFormed (w : Nat) (entries : List Nat) : Bool :=
  entries.all fun p => decide (1 ≤ p ∧ p ≤ w)

/-- A PermutationTable of length `n` for input width `w`, with the evidence of rule R91: a table with an entry out of
range cannot be built, so no step can raise `ConfigurationError` (rule R223). -/
structure PermTable (w n : Nat) where
  /-- `T[1], ..., T[n]` in reading order, 1-based positions (rules R6, R8). -/
  entries : List Nat
  /-- The table has `n` entries (rule R99). -/
  length_eq : entries.length = n
  /-- Every entry is a position of the input (rule R91). -/
  in_range : tableWellFormed w entries = true

/-- Rule R146: every row of an S-box contains each of 0..15 exactly once. -/
def sboxWellFormed (S : SBox) : Bool :=
  S.toList.all fun row => (List.range 16).all fun x => row.toList.count (BitVec.ofNat 4 x) == 1

/-- Rule R74: "Every value of `arg` is legal for both defined opcodes: no operand value is reserved, no key is
refused". The operand's width is its type, so no instruction term is ill-formed. -/
def Instr.wellFormed : Instr → Bool
  | .ldkey _ => true
  | .decblk _ => true

/-- Rule R72: a command word is defined when `op` (bits 71:64) is `0x01` or `0x02`; every other one is reserved. -/
def cmdWellFormed (w : CmdWord) : Bool :=
  w.extractLsb' 64 8 == 0x01#8 || w.extractLsb' 64 8 == 0x02#8

/-- Rules R71, R73: `st` is one of `0x00`, `0x01`, `0x02`, and `val` is zero in every error response. -/
def rspWellFormed (w : RspWord) : Bool :=
  w.extractLsb' 64 8 == 0x00#8 ||
    ((w.extractLsb' 64 8 == 0x01#8 || w.extractLsb' 64 8 == 0x02#8) && w.extractLsb' 0 64 == 0#64)

end Sys2Proof
end

