-- ==== Sys2Proof/Decode.lean ====
section
/-! DEFINITION. Decoding and encoding of command words and response words (`spec/30_encoding.md` rules R70 to R79). -/

namespace Sys2Proof

/-- Why a command word is no instruction. -/
inductive DecodeError where
  /-- Raised by `decode` for an opcode other than `0x01` and `0x02` (rule R74). Safe: the accept step answers it with
  `ILLEGAL_OP` (rule R221), it does not stop the machine. -/
  | reservedOpcode (op : Opcode)
  deriving DecidableEq, Repr

/-- The field `op = cmd[71:64]` (rule R70). -/
def cmdOp (w : CmdWord) : Opcode := w.extractLsb' 64 8

/-- The field `arg = cmd[63:0]` (rules R70, R75: used whole and unchanged). -/
def cmdArg (w : CmdWord) : BitVec 64 := w.extractLsb' 0 64

/-- The opcode of `LDKEY` (rule R72). -/
def opLdkey : Opcode := 0x01#8

/-- The opcode of `DECBLK` (rule R72). -/
def opDecblk : Opcode := 0x02#8

/-- Rule R79, in full: `if op = 0x01 then LDKEY(arg) else if op = 0x02 then DECBLK(arg) else ILLEGAL`. Total on all
2^72 command words; `arg` never takes part in the choice (rule R72). -/
def decode (w : CmdWord) : Except DecodeError Instr :=
  if cmdOp w = opLdkey then .ok (.ldkey (cmdArg w))
  else if cmdOp w = opDecblk then .ok (.decblk (cmdArg w))
  else .error (.reservedOpcode (cmdOp w))

/-- A command word from its fields, `op ‖ arg` (rule R70). -/
def cmdWord (op : Opcode) (arg : BitVec 64) : CmdWord := op ++ arg

/-- The command word of an instruction (rules R70, R72). -/
def encode : Instr → CmdWord
  | .ldkey key => cmdWord opLdkey key
  | .decblk block => cmdWord opDecblk block

/-- The status codes (rule R73). -/
def Status.code : Status → StatusCode
  | .ok => 0x00#8
  | .illegalOp => 0x01#8
  | .noKey => 0x02#8

/-- The status of a code; `0x03`..`0xFF` are reserved and never produced (rule R73). -/
def Status.ofCode (c : StatusCode) : Option Status :=
  if c = 0x00#8 then some .ok
  else if c = 0x01#8 then some .illegalOp
  else if c = 0x02#8 then some .noKey
  else none

/-- The response word `st ‖ val` (rule R71). -/
def rspWord (st : Status) (val : Block) : RspWord := st.code ++ val

/-- The field `st = rsp[71:64]` (rule R71). -/
def rspSt (w : RspWord) : StatusCode := w.extractLsb' 64 8

/-- The field `val = rsp[63:0]` (rules R71, R76). -/
def rspVal (w : RspWord) : Block := w.extractLsb' 0 64

/-- The instruction the decoder reads from a table word of `nbits` bits: the 72-bit command word whose bits below
`nbits` are those of `w` and whose other bits are zero. The core has one format of 72 bits (rule R70), so there is one
word and bit 0 of the table's numbering is `cmd[0]`. -/
def decodeTableWord (nbits w : Nat) : Option Instr :=
  match decode (BitVec.ofNat 72 (w % 2 ^ nbits)) with
  | .ok i => some i
  | .error _ => none

end Sys2Proof
end

