-- ==== Sys2Proof/Machine/Operands.lean ====
section
/-! DEFINITION. The bit and byte operations every other definition is built from: positions (`spec/00_scope.md` rule
R6), the 28-bit rotation (rule R8), byte order (`spec/20_memory.md` rules R54, R55) and the operand forms of the two
commands (`spec/30_encoding.md` rule R75). -/

namespace Sys2Proof.Machine

/-- Rule R6: position `p` of a value of width `w`, counted from 1 at the most significant end,
`pos(v, W, p) = v[W - p]`. The one place where the two numberings meet. -/
def pos {w : Nat} (v : BitVec w) (p : Nat) : Bool := v.getLsbD (w - p)

/-- Rule R8: left-circular rotation of a 28-bit value by `n` (`n` is 1 or 2): the bits that leave at position 1
re-enter at position 28 (rule R113). -/
def rotl28 (x : HalfKey) (n : Nat) : HalfKey := (x <<< n) ||| (x >>> (28 - n))

/-- The left (more significant) half of the PC-1 output, `CD0[55:28]` (rule R111). -/
def leftHalfKey (cd : KeyPair) : HalfKey := cd.extractLsb' 28 28

/-- The right half of the PC-1 output, `CD0[27:0]` (rule R111). -/
def rightHalfKey (cd : KeyPair) : HalfKey := cd.extractLsb' 0 28

/-- The left half of a 64-bit value, `v[63:32]` (rule R161). -/
def leftHalf (v : BitVec 64) : HalfBlock := v.extractLsb' 32 32

/-- The right half of a 64-bit value, `v[31:0]` (rule R161). -/
def rightHalf (v : BitVec 64) : HalfBlock := v.extractLsb' 0 32

/-- Rule R54: byte `b[k]` of a 64-bit value is `v[63-8k : 56-8k]`, the first byte the most significant. -/
def byteOf (v : BitVec 64) (k : Fin 8) : Byte := v.extractLsb' (56 - 8 * k.val) 8

/-- Rule R54: the eight bytes of a 64-bit value in stream order. -/
def bytesOfBlock (v : BitVec 64) : Vector Byte 8 :=
  #v[byteOf v 0, byteOf v 1, byteOf v 2, byteOf v 3, byteOf v 4, byteOf v 5, byteOf v 6, byteOf v 7]

/-- Rule R54: the 64-bit value `b[0] ‖ b[1] ‖ ... ‖ b[7]` of eight bytes in stream order (big-endian). -/
def blockOfBytes (b : Vector Byte 8) : BitVec 64 :=
  b[0] ++ b[1] ++ b[2] ++ b[3] ++ b[4] ++ b[5] ++ b[6] ++ b[7]

end Sys2Proof.Machine
end

