-- ==== Sys2Proof/Machine/Permutation.lean ====
section
/-! DEFINITION. The component BitPermutation (`spec/40_bit_permutation.md` rule R90). -/

namespace Sys2Proof.Machine

/-- Rule R90: "For each output position `i`, the output bit equals the input bit at position `table[i]`." Total: the
table carries the evidence that every entry is a position of the input (rule R91). -/
def permute {w n : Nat} (v : BitVec w) (T : PermTable w n) : BitVec n :=
  (BitVec.ofBoolListBE (T.entries.map fun p => pos v p)).cast
    ((List.length_map _).trans T.length_eq)

end Sys2Proof.Machine
end

