-- ==== Sys2Proof/Machine/Tables.lean ====
section
/-! DEFINITION. The six permutation tables (`spec/40_bit_permutation.md` rules R92 to R97; names and widths rule R99),
constants of the hardware and not state (`spec/10_state.md` rule R30). Each is listed in reading order: the first number
is `T[1]`, the entry for output position 1. -/

namespace Sys2Proof.Machine

/-- Rule R92: table IP, the initial permutation, 64 → 64. -/
def ip : PermTable 64 64 where
  entries :=
    [58, 50, 42, 34, 26, 18, 10, 2] ++
    [60, 52, 44, 36, 28, 20, 12, 4] ++
    [62, 54, 46, 38, 30, 22, 14, 6] ++
    [64, 56, 48, 40, 32, 24, 16, 8] ++
    [57, 49, 41, 33, 25, 17, 9, 1] ++
    [59, 51, 43, 35, 27, 19, 11, 3] ++
    [61, 53, 45, 37, 29, 21, 13, 5] ++
    [63, 55, 47, 39, 31, 23, 15, 7]
  length_eq := by decide
  in_range := by decide

/-- Rule R93: table IP⁻¹ (`IPINV`), the final permutation, 64 → 64; the inverse of IP. -/
def ipInv : PermTable 64 64 where
  entries :=
    [40, 8, 48, 16, 56, 24, 64, 32] ++
    [39, 7, 47, 15, 55, 23, 63, 31] ++
    [38, 6, 46, 14, 54, 22, 62, 30] ++
    [37, 5, 45, 13, 53, 21, 61, 29] ++
    [36, 4, 44, 12, 52, 20, 60, 28] ++
    [35, 3, 43, 11, 51, 19, 59, 27] ++
    [34, 2, 42, 10, 50, 18, 58, 26] ++
    [33, 1, 41, 9, 49, 17, 57, 25]
  length_eq := by decide
  in_range := by decide

/-- Rule R94: table PC-1, 64 → 56; entries 1..28 give C₀, entries 29..56 give D₀, and the eight parity positions never
occur. -/
def pc1 : PermTable 64 56 where
  entries :=
    [57, 49, 41, 33, 25, 17, 9] ++
    [1, 58, 50, 42, 34, 26, 18] ++
    [10, 2, 59, 51, 43, 35, 27] ++
    [19, 11, 3, 60, 52, 44, 36] ++
    [63, 55, 47, 39, 31, 23, 15] ++
    [7, 62, 54, 46, 38, 30, 22] ++
    [14, 6, 61, 53, 45, 37, 29] ++
    [21, 13, 5, 28, 20, 12, 4]
  length_eq := by decide
  in_range := by decide

/-- Rule R95: table PC-2, 56 → 48; entries 1..24 select from C, entries 25..48 from D. -/
def pc2 : PermTable 56 48 where
  entries :=
    [14, 17, 11, 24, 1, 5] ++
    [3, 28, 15, 6, 21, 10] ++
    [23, 19, 12, 4, 26, 8] ++
    [16, 7, 27, 20, 13, 2] ++
    [41, 52, 31, 37, 47, 55] ++
    [30, 40, 51, 45, 33, 48] ++
    [44, 49, 39, 56, 34, 53] ++
    [46, 42, 50, 36, 29, 32]
  length_eq := by decide
  in_range := by decide

/-- Rule R96: table E, the expansion, 32 → 48; sixteen positions occur twice. -/
def expansionE : PermTable 32 48 where
  entries :=
    [32, 1, 2, 3, 4, 5] ++
    [4, 5, 6, 7, 8, 9] ++
    [8, 9, 10, 11, 12, 13] ++
    [12, 13, 14, 15, 16, 17] ++
    [16, 17, 18, 19, 20, 21] ++
    [20, 21, 22, 23, 24, 25] ++
    [24, 25, 26, 27, 28, 29] ++
    [28, 29, 30, 31, 32, 1]
  length_eq := by decide
  in_range := by decide

/-- Rule R97: table P, the permutation of the S-box outputs, 32 → 32. -/
def permP : PermTable 32 32 where
  entries :=
    [16, 7, 20, 21] ++
    [29, 12, 28, 17] ++
    [1, 15, 23, 26] ++
    [5, 18, 31, 10] ++
    [2, 8, 24, 14] ++
    [32, 27, 3, 9] ++
    [19, 13, 30, 6] ++
    [22, 11, 4, 25]
  length_eq := by decide
  in_range := by decide

end Sys2Proof.Machine
end

