-- ==== Sys2Proof/Machine/FeistelRound.lean ====
section
/-! DEFINITION. The component FeistelRound (`spec/42_feistel_round.md` rules R130 to R144). -/

namespace Sys2Proof.Machine

/-- Rule R133: group `j` (lane `j - 1`) of the 48-bit value, `x[47-6(j-1) : 42-6(j-1)]`, group 1 leftmost. -/
def sboxGroup (x : Subkey) (j : Fin 8) : SixBits := x.extractLsb' (42 - 6 * j.val) 6

/-- Rule R134: `row = 2*b1 + b6`, the outer two bits, `b1 = g[5]` the more significant. -/
def sboxRow (g : SixBits) : BitVec 2 := BitVec.ofBool (g.getLsbD 5) ++ BitVec.ofBool (g.getLsbD 0)

/-- Rule R134: `col = g[4:1]`, the inner four bits. -/
def sboxCol (g : SixBits) : BitVec 4 := g.extractLsb' 1 4

/-- Rule R134: the entry of an S-box that a 6-bit group selects; every group selects exactly one. -/
def sboxLookup (S : SBox) (g : SixBits) : Nibble := (S.get (sboxRow g).toFin).get (sboxCol g).toFin

/-- Rules R133, R134: the output of lane `j` (S-box `j + 1`). -/
def sboxLane (x : Subkey) (j : Fin 8) : Nibble := sboxLookup (sbox j) (sboxGroup x j)

/-- Rules R133 to R143: the S-box stage, `s = o1 ‖ o2 ‖ ... ‖ o8`, the output of S1 most significant. -/
def substitute (x : Subkey) : HalfBlock :=
  sboxLane x 0 ++ sboxLane x 1 ++ sboxLane x 2 ++ sboxLane x 3 ++
    sboxLane x 4 ++ sboxLane x 5 ++ sboxLane x 6 ++ sboxLane x 7

/-- Rule R130: `f(half, subkey)`: expansion (rule R131), key mixing (rule R132), S-boxes (rules R133, R134, R143),
permutation P (rule R144). -/
def feistel (half : HalfBlock) (subkey : Subkey) : HalfBlock :=
  permute (substitute (permute half expansionE ^^^ subkey)) permP

end Sys2Proof.Machine
end

