-- ==== Sys2Proof/Machine/KeySchedule.lean ====
section
/-! DEFINITION. The component KeySchedule as a pure function (`spec/41_key_schedule.md` rules R110 to R116). -/

namespace Sys2Proof.Machine

/-- Rule R112: `SHIFT[1..16]`, "1 bit for rounds 1,2,9,16; 2 bits otherwise". -/
def shiftTable : Vector Nat 16 :=
  #v[1, 1, 2, 2, 2, 2, 2, 2, 1, 2, 2, 2, 2, 2, 2, 1]

/-- `SHIFT[r]` (rule R112). -/
def shift (r : Round) : Nat := shiftTable.get r

/-- The key-schedule register pair. -/
structure KeyHalves where
  /-- The left half, Cᵣ. -/
  C : HalfKey
  /-- The right half, Dᵣ. -/
  D : HalfKey
  deriving DecidableEq, Repr

/-- Rule R111: PC-1 and the split, C₀ the left half. -/
def initialKeyHalves (key : Key) : KeyHalves :=
  let cd0 := permute key pc1
  ⟨leftHalfKey cd0, rightHalfKey cd0⟩

/-- Rule R113: the rotation of round `r`; "The two halves rotate separately". -/
def rotateKeyHalves (r : Round) (cd : KeyHalves) : KeyHalves :=
  ⟨rotl28 cd.C (shift r), rotl28 cd.D (shift r)⟩

/-- Rule R114: the subkey selected from a pair of halves, `permute(C ‖ D, 56, PC2)`. -/
def selectSubkey (cd : KeyHalves) : Subkey :=
  permute (cd.C ++ cd.D) pc2

/-- Cᵣ and Dᵣ of a key: C₀, D₀ for `r = 0`, and one rotation (rule R113) for each round up to `r`. -/
def keyHalvesAfter (key : Key) : Nat → KeyHalves
  | 0 => initialKeyHalves key
  | n + 1 => rotateKeyHalves (Fin.ofNat 16 n) (keyHalvesAfter key n)

/-- Rules R110, R114, R115: `derive(key) = [K1, ..., K16]`, `Kr` selected from Cᵣ ‖ Dᵣ, "*after* the rotation of round
`r`". -/
def derive (key : Key) : RoundKeySet :=
  Vector.ofFn fun r : Round => selectSubkey (keyHalvesAfter key (r.val + 1))

end Sys2Proof.Machine
end

