-- ==== Sys2Proof/Machine/BlockCipher.lean ====
section
/-! DEFINITION. The component BlockCipherCore as a pure function (`spec/43_block_cipher.md` rules R160 to R165). -/

namespace Sys2Proof.Machine

/-- The pair of HalfBlocks. -/
structure Halves where
  /-- The left half, Lᵣ. -/
  L : HalfBlock
  /-- The right half, Rᵣ. -/
  R : HalfBlock
  deriving DecidableEq, Repr

/-- Rule R161: IP and the split, L₀ the left half. -/
def initialHalves (block : Block) : Halves :=
  let v := permute block ip
  ⟨leftHalf v, rightHalf v⟩

/-- Rule R162: one round, `L(r) <- R(r-1)`, `R(r) <- L(r-1) ^ f(R(r-1), k)`, both from the old pair. -/
def feistelStep (k : Subkey) (lr : Halves) : Halves :=
  ⟨lr.R, lr.L ^^^ feistel lr.R k⟩

/-- Rule R163: round `r` of a decryption uses `keys[17 - r]`: round 1 uses K₁₆, round 16 uses K₁. -/
def decryptSubkey (keys : RoundKeySet) (r : Round) : Subkey := keys.get r.rev

/-- Lᵣ and Rᵣ of a block being decrypted: L₀, R₀ for `r = 0`, and one round (rule R162) for each round up to `r`. -/
def halvesAfter (keys : RoundKeySet) (block : Block) : Nat → Halves
  | 0 => initialHalves block
  | n + 1 => feistelStep (decryptSubkey keys (Fin.ofNat 16 n)) (halvesAfter keys block n)

/-- Rules R164, R165: the pre-output `R_16 ‖ L_16` and the final permutation. -/
def finalBlock (lr : Halves) : Block := permute (lr.R ++ lr.L) ipInv

/-- Rule R160: `decryptBlock(cipherBlock, keys)`. -/
def decryptBlock (block : Block) (keys : RoundKeySet) : Block :=
  finalBlock (halvesAfter keys block 16)

end Sys2Proof.Machine
end

