-- ==== Sys2Proof/Config.lean ====
section
/-! DEFINITION. Implementation parameters of the core (`spec/00_scope.md` rule R5) and the two free values of the model.
The widths are the types of `Word.lean`; the table values are constants of the machine (`Machine/Tables.lean`,
`Machine/SBoxes.lean`), not parameters. `T_STEP` is not modelled: the spec leaves it open and no rule depends on it
(rule R260). -/

namespace Sys2Proof

/-- The contents of the datapath registers, the type of the parameter `RESET_DATAPATH` (rule R5): everything that
reset leaves unspecified (rule R34). -/
structure Datapath where
  /-- Left half of the key-schedule register (rule R22). -/
  C : HalfKey
  /-- Right half of the key-schedule register (rule R22). -/
  D : HalfKey
  /-- The round-key register file `RK[1..16]` (rule R23). -/
  RK : RoundKeySet
  /-- Left HalfBlock (rule R21). -/
  L : HalfBlock
  /-- Right HalfBlock (rule R21). -/
  R : HalfBlock
  deriving DecidableEq, Repr, Inhabited

namespace Config

/-- `N_ROUNDS`: Feistel rounds and subkeys (rule R5). -/
def nRounds : Nat := 16

/-- `N_SBOX`: S-boxes (rule R5). -/
def nSBox : Nat := 8

/-- `N_LANES`: blocks in flight at once (rules R5, R233). -/
def nLanes : Nat := 1

/-- FREE VALUE (assumption 2): what the datapath registers hold after a reset step, "they may hold any values,
including whatever they held before the reset" (rules R34, R250). It is applied to the number of resets taken so far
(the model's own counter `State.draws`) and to the old contents; it has no body, so nothing constrains it. -/
opaque resetDatapath : Nat → Datapath → Datapath

/-- FREE VALUE (assumption 12): the byte at an offset of one of the host's byte strings where nothing stands: past the
end of the input, or between the end of the output and a write beyond it. Rule R53 states none, and no run of the driver
meets one (rules R202, R204, R205). -/
opaque absentByte : Nat → Byte

end Config

end Sys2Proof
end

