-- ==== Sys2Proof/Machine/State.lean ====
section
/-! DEFINITION. The machine's state (`spec/10_state.md` rule R20), its value after reset (rule R34), and the reasons a
step can stop. -/

namespace Sys2Proof.Machine

/-- Rule R25: what the sequencer is doing. Its encoding in bits "is not observable and is left to the model" (rule
R20). -/
inductive Phase where
  /-- No operation in progress, a command can be accepted. -/
  | idle
  /-- An LDKEY is deriving subkeys. -/
  | ks
  /-- A DECBLK is running rounds. -/
  | rnd
  /-- A DECBLK has run 16 rounds and has yet to emit its result. -/
  | fin
  deriving DecidableEq, Repr

/-- What the host drives on the input ports (rule R27), one item of the model's own list `State.host` (assumption 3). -/
inductive HostItem where
  /-- `cmd_valid = 1` with this command word, held steady until the accept step (rule R254). -/
  | command (word : CmdWord)
  /-- `cmd_valid = 1` with this command word for one step only: an offer that is withdrawn if it is not accepted
  (`spec/93_implementation_defined.md` U13). -/
  | offerOnce (word : CmdWord)
  /-- `cmd_valid = 0` and `rst = 0` for one step. -/
  | idle
  /-- `rst = 1` for one step (rule R250). -/
  | reset
  deriving DecidableEq, Repr

/-- The complete state of the hardware (rule R20), and two fields of the model's own, `draws` and `host`. -/
structure State where
  /-- What the sequencer is doing (rule R25). -/
  phase : Phase
  /-- Rounds completed in the current operation, 5 bits (rule R24). -/
  rc : BitVec 5
  /-- The flag "key valid", the only flag (rule R26). -/
  kv : Bool
  /-- Left half of the key-schedule register (rule R22). -/
  C : HalfKey
  /-- Right half of the key-schedule register (rule R22). -/
  D : HalfKey
  /-- The round-key register file `RK[1..16]` (rule R23); `RK[r]` is entry `r - 1`. -/
  RK : RoundKeySet
  /-- Left HalfBlock register (rule R21). -/
  L : HalfBlock
  /-- Right HalfBlock register (rule R21). -/
  R : HalfBlock
  /-- The response trace since the last reset, oldest first (rule R29). -/
  out : List RspWord
  /-- MODEL'S OWN: resets taken so far, the index of the free value `Config.resetDatapath` (assumption 2). -/
  draws : Nat
  /-- MODEL'S OWN: what the host drives at the steps to come; past its end the host drives nothing (assumption 3). -/
  host : List HostItem
  deriving DecidableEq, Repr

/-- Why the machine stops with a fault. -/
inductive Fault where
  /-- Raised by `ksStep` and `rndStep` when `rc` is above 15: "the step that would take it past 16 does not exist"
  (rule R24). Safe: a stuck state that no reachable state is in (rule R37; assumption 6). -/
  | noSuchRound
  deriving DecidableEq, Repr

/-- Why an instruction has no meaning. -/
inductive Refusal where
  /-- Raised by an arm of `exec` for an instruction that has no meaning yet; no arm raises it. Safe. -/
  | notModelled (mnemonic : String)
  deriving DecidableEq, Repr

/-- The state right after reset with the datapath registers holding `dp`: the parameter `RESET_DATAPATH` as "an
argument of the launch state" (rules R5, R34). -/
def State.launch (dp : Datapath) : State where
  phase := .idle
  rc := 0#5
  kv := false
  C := dp.C
  D := dp.D
  RK := dp.RK
  L := dp.L
  R := dp.R
  out := []
  draws := 0
  host := []

/-- DESIGN CHOICE (assumption 1): the datapath registers of the one reset state the model names, all zero. -/
def zeroDatapath : Datapath where
  C := 0#28
  D := 0#28
  RK := Vector.replicate 16 0#48
  L := 0#32
  R := 0#32

/-- The machine right after reset (rule R34): `phase = IDLE`, `rc = 0`, `kv = 0`, `out` empty; the datapath registers,
which the spec leaves unspecified, at the values of assumption 1; the host drives nothing (assumption 3). -/
def State.reset : State := State.launch zeroDatapath

end Sys2Proof.Machine
end

