-- ==== Sys2Proof/Machine/Flags.lean ====
section
/-! DEFINITION. The flag `kv` (`spec/10_state.md` rule R26), the only flag: what each step that writes it makes of it.
"No cipher operation sets any other flag". -/

namespace Sys2Proof.Machine

/-- The round of rule R122 (`r = 16`) and rule R170 that ends its phase. -/
def isLastRound (r : Round) : Bool := r.val == 15

/-- Rule R121: the LDKEY accept step clears `kv`, before any `RK` entry is overwritten. -/
def kvAtLdkeyAccept : Bool := false

/-- Rule R122: the sixteenth KS step sets `kv`, every other KS step keeps it. -/
def kvAfterKsRound (r : Round) (kv : Bool) : Bool := if isLastRound r then true else kv

/-- Rule R120: after a completed LDKEY `kv` is 1. -/
def kvAfterLdkey : Bool := true

/-- Rules R34, R250: reset clears `kv`. -/
def kvAfterReset : Bool := false

end Sys2Proof.Machine
end

