-- ==== Sys2Proof/Machine/Ops.lean ====
section
/-! DEFINITION. The named operations over the state: the input and output ports (`spec/10_state.md` rules R27 to R29),
the round counter (rule R24), the round-key file (rule R23), responses (rule R29), error responses
(`spec/60_exceptions.md` rule R228), acceptance (rule R28) and reset (`spec/70_reset_and_hazards.md` rule R250). -/

namespace Sys2Proof.Machine

/-! ### Input ports -/

/-- The input port `rst` at the next step (rule R27). -/
def State.rstPort (s : State) : Bool :=
  match s.host with
  | .reset :: _ => true
  | _ => false

/-- The input ports `cmd_valid`, `cmd_op ‖ cmd_arg` at the next step (rule R27): the command word the host offers, if
`cmd_valid = 1`. -/
def State.cmdPort (s : State) : Option CmdWord :=
  match s.host with
  | .command w :: _ => some w
  | .offerOnce w :: _ => some w
  | _ => none

/-- The host's list after a step that accepts no command: a held command stays offered (rule R254, "not queued, not
dropped and not an error"), everything else was for one step only. -/
def hostAfterTick : List HostItem → List HostItem
  | [] => []
  | .command w :: rest => .command w :: rest
  | .offerOnce _ :: rest => rest
  | .idle :: rest => rest
  | .reset :: rest => rest

/-- The state with the host moved on past a step that accepts no command. -/
def State.hostTick (s : State) : State := { s with host := hostAfterTick s.host }

/-- The state with the host moved on past a step that took its current item: an accepted command, or a reset. -/
def State.hostTake (s : State) : State := { s with host := s.host.tail }

/-- The host offers command word `w` next, before everything else it will do, to an idle sequencer: what a fetch of `w`
takes (assumption 8). -/
def State.placeCommand (s : State) (w : CmdWord) : State :=
  { s with phase := .idle, host := .command w :: s.host }

/-- The state with another list of host items. -/
def State.withHost (s : State) (h : List HostItem) : State := { s with host := h }

/-! ### Output ports -/

/-- Rule R28: `cmd_ready = 1` if and only if `phase = IDLE`. -/
def State.cmdReady (s : State) : Bool := s.phase == .idle

/-- The output port `kv` (rules R26, R27). -/
def State.kvPort (s : State) : Bool := s.kv

/-- The response channel during a step (rules R27, R29): `some w` is `rsp_valid = 1` with `rsp_st ‖ rsp_val = w`, "one
delivery per response appended to `out`"; `none` is `rsp_valid = 0`, when `rsp_st` and `rsp_val` are unspecified (rule
R34; assumption 7). -/
def rspPort (before after : State) : Option RspWord :=
  if after.out.length = before.out.length + 1 then after.out.getLast? else none

/-! ### Round counter and round-key file -/

/-- The round the next KS or RND step runs, number `rc + 1` (rules R122, R170); none when `rc` is above 15 (rule
R24). -/
def State.nextRound (s : State) : Option Round :=
  if h : s.rc.toNat < 16 then some ⟨s.rc.toNat, h⟩ else none

/-- `rc <- r` (rules R122, R170). -/
def State.countRound (s : State) (r : Round) : State := { s with rc := BitVec.ofNat 5 (r.val + 1) }

/-- `RK[r] <- k` (rule R122); every other entry keeps its value. -/
def State.writeRK (s : State) (r : Round) (k : Subkey) : State := { s with RK := s.RK.set r.val k }

/-! ### Responses -/

/-- `respond(st, val)` (rules R9, R29): append the response word `st ‖ val` to `out`. -/
def State.respond (s : State) (st : Status) (val : Block) : State := { s with out := s.out ++ [rspWord st val] }

/-- Rule R228: the whole effect of a hardware error, "the one response word" with `val = 0`; it "saves nothing, changes
no mode, masks nothing, vectors nowhere". There is nothing to return from (rule R229), so it has no companion. -/
def State.errorResponse (s : State) (st : Status) : State := s.respond st 0#64

/-- Rule R221: the accept step of a reserved opcode, "and nothing else". -/
def State.illegalOp (s : State) : State := s.errorResponse .illegalOp

/-! ### Acceptance -/

/-- Rule R28: an accept step is enabled only when `phase = IDLE`; while it is not, "an offered command is neither taken
nor lost nor an error, it waits", so nothing changes (assumption 5). -/
def acceptWhenIdle (accept : State → State) (s : State) : Host.Outcome State Fault Refusal :=
  match s.phase with
  | .idle => .next (accept s)
  | .ks => .next s
  | .rnd => .next s
  | .fin => .next s

/-! ### Reset -/

/-- The contents of the datapath registers. -/
def State.datapath (s : State) : Datapath := ⟨s.C, s.D, s.RK, s.L, s.R⟩

/-- The state with other contents of the datapath registers. -/
def State.withDatapath (s : State) (dp : Datapath) : State :=
  { s with C := dp.C, D := dp.D, RK := dp.RK, L := dp.L, R := dp.R }

/-- Rule R250: the reset step. `phase`, `rc`, `kv` and `out` take the values of rule R34; the datapath registers are
unspecified, a free value drawn from `Config.resetDatapath` (assumption 2). -/
def State.resetStep (s : State) : State :=
  { s.withDatapath (Config.resetDatapath s.draws s.datapath) with
    phase := .idle
    rc := 0#5
    kv := kvAfterReset
    out := []
    draws := s.draws + 1 }

end Sys2Proof.Machine
end

