-- ==== Sys2Proof/Machine/Decblk.lean ====
section
/-! DEFINITION. The command DECBLK (`spec/43_block_cipher.md` rules R168 to R174): its accept step, which is its meaning
as an instruction, the sixteen RND steps and the FIN step that follow, and its whole effect in one move. -/

namespace Sys2Proof.Machine

/-- Rule R169 when `kv = 1`: IP of the block into `L`, `R`, `rc <- 0`, `phase <- RND`; no response, and `RK`, `C`, `D`,
`kv` are not touched. Rule R222 when `kv = 0`: the error response `NO_KEY` and nothing else. -/
def decblkAccept (block : Block) (s : State) : State :=
  if s.kv then
    { s with
      L := (initialHalves block).L
      R := (initialHalves block).R
      rc := 0#5
      phase := .rnd }
  else s.errorResponse .noKey

/-- The meaning of `DECBLK block` (rules R28, R169, R222). -/
def execDecblk (block : Block) (s : State) : Host.Outcome State Fault Refusal :=
  acceptWhenIdle (decblkAccept block) s

/-- The pair of HalfBlocks in the registers `L`, `R`. -/
def State.halves (s : State) : Halves := ⟨s.L, s.R⟩

/-- Rule R170, the part every RND step has in common: one Feistel round with `RK[17 - r]`, and `rc <- r`. -/
def rndWrite (r : Round) (s : State) : State :=
  let lr := feistelStep (decryptSubkey s.RK r) s.halves
  { s.countRound r with L := lr.L, R := lr.R }

/-- Rule R170: one RND step with `r = rc + 1`; the sixteenth goes to `FIN`. `RK` is read, never written. -/
def rndRound (r : Round) (s : State) : State :=
  if isLastRound r then { rndWrite r s with phase := .fin } else rndWrite r s

/-- The RND step of the sequencer (rule R170). -/
def rndStep (s : State) : Host.Outcome State Fault Refusal :=
  match s.nextRound with
  | some r => .next (rndRound r s)
  | none => .fault .noSuchRound

/-- Rule R171: the FIN step forms `R ‖ L`, applies IP⁻¹, responds `(OK, plain)` and returns to `IDLE`; `L`, `R` and `rc`
keep their values. -/
def finRound (s : State) : State :=
  ({ s with phase := .idle }).respond .ok (finalBlock s.halves)

/-- The FIN step of the sequencer (rule R171). -/
def finStep (s : State) : Host.Outcome State Fault Refusal := .next (finRound s)

/-- Rule R168: the whole effect of an accepted `DECBLK block`, as one move. -/
def decblkTransaction (block : Block) (s : State) : State :=
  if s.kv then
    ({ s with
      L := (halvesAfter s.RK block 16).L
      R := (halvesAfter s.RK block 16).R
      rc := 16#5
      phase := .idle }).respond .ok (decryptBlock block s.RK)
  else s.errorResponse .noKey

end Sys2Proof.Machine
end

