-- ==== Sys2Proof/Machine/Ldkey.lean ====
section
/-! DEFINITION. The command LDKEY (`spec/41_key_schedule.md` rules R120 to R125): its accept step, which is its meaning
as an instruction, the sixteen KS steps that follow, and its whole effect in one move (the transaction level). -/

namespace Sys2Proof.Machine

/-- Rule R121: what the LDKEY accept step does: PC-1 of the key into `C`, `D`, `rc <- 0`, `kv <- 0`, `phase <- KS`. No
response is appended; `RK`, `L`, `R` are not touched. -/
def ldkeyAccept (key : Key) (s : State) : State :=
  { s with
    C := (initialKeyHalves key).C
    D := (initialKeyHalves key).D
    rc := 0#5
    kv := kvAtLdkeyAccept
    phase := .ks }

/-- The meaning of `LDKEY key` (rules R28, R121). Every key is accepted (rule R125), whatever `kv` is (rule R124). -/
def execLdkey (key : Key) (s : State) : Host.Outcome State Fault Refusal :=
  acceptWhenIdle (ldkeyAccept key) s

/-- The pair of key halves in the registers `C`, `D`. -/
def State.keyHalves (s : State) : KeyHalves := ⟨s.C, s.D⟩

/-- Rule R122, the part every KS step has in common: rotate `C` and `D`, write `RK[r]` from the new `C ‖ D`, `rc <- r`,
and `kv` (set by the sixteenth). -/
def ksWrite (r : Round) (s : State) : State :=
  let cd := rotateKeyHalves r s.keyHalves
  { (s.writeRK r (selectSubkey cd)).countRound r with C := cd.C, D := cd.D, kv := kvAfterKsRound r s.kv }

/-- Rule R122: one KS step with `r = rc + 1`; the sixteenth also returns to `IDLE` and responds `(OK, 0)`. -/
def ksRound (r : Round) (s : State) : State :=
  if isLastRound r then ({ ksWrite r s with phase := .idle }).respond .ok 0#64 else ksWrite r s

/-- The KS step of the sequencer (rule R122). -/
def ksStep (s : State) : Host.Outcome State Fault Refusal :=
  match s.nextRound with
  | some r => .next (ksRound r s)
  | none => .fault .noSuchRound

/-- Rule R120: the whole effect of an accepted `LDKEY key`, as one move. -/
def ldkeyTransaction (key : Key) (s : State) : State :=
  ({ s with
    RK := derive key
    C := (keyHalvesAfter key 16).C
    D := (keyHalvesAfter key 16).D
    rc := 16#5
    phase := .idle
    kv := kvAfterLdkey }).respond .ok 0#64

end Sys2Proof.Machine
end

