-- ==== Sys2Proof/Machine/Dispatch.lean ====
section
/-! DEFINITION. One arm per instruction (`spec/opcode_table.json`; `spec/30_encoding.md` rule R72). -/

namespace Sys2Proof.Machine

def exec (i : Instr) (s : State) : Host.Outcome State Fault Refusal :=
  match i with
  | .ldkey key => Sys2Proof.Machine.execLdkey key s
  | .decblk block => Sys2Proof.Machine.execDecblk block s

end Sys2Proof.Machine
end

