-- ==== Sys2Proof/Machine/Sequencer.lean ====
section
/-! DEFINITION. The moves of the sequencer (`spec/00_scope.md` rules R10, R12): the accept step for any command word and
the advance step of each phase; and the effect of any command word in one move (the transaction level). -/

namespace Sys2Proof.Machine

/-- The accept step of a command word (rule R79): the decoded instruction runs, a reserved opcode is answered
`ILLEGAL_OP` (rule R221). -/
def acceptWord (w : CmdWord) (s : State) : Host.Outcome State Fault Refusal :=
  match decode w with
  | .ok i => exec i s
  | .error _ => .next s.illegalOp

/-- A step taken while no reset is asserted (rules R12, R25): idle, the sequencer accepts the command the host offers, or
does nothing (rule R263); not idle, it takes the advance step of its phase, and an offered command waits (rule R28). -/
def sequencerStep (s : State) : Host.Outcome State Fault Refusal :=
  match s.phase with
  | .idle =>
    match s.cmdPort with
    | some w => acceptWord w s.hostTake
    | none => .next s.hostTick
  | .ks => ksStep s.hostTick
  | .rnd => rndStep s.hostTick
  | .fin => finStep s.hostTick

/-- One step of the machine: reset "is enabled in every state and overrides every other step" (rule R250). -/
def machineStep (s : State) : Host.Outcome State Fault Refusal :=
  if s.rstPort then .next s.hostTake.resetStep else sequencerStep s

/-- The whole effect of a command word accepted while idle, in one move (rules R120, R168, R221, R222). -/
def transact (w : CmdWord) (s : State) : State :=
  match decode w with
  | .ok (.ldkey key) => ldkeyTransaction key s
  | .ok (.decblk block) => decblkTransaction block s
  | .error _ => s.illegalOp

/-- Rule R259: how many steps a command word takes, its accept step counted, when `kv` is as given: 17 for LDKEY, 18 for
DECBLK with `kv = 1`, 1 for an error response. -/
def commandSteps (w : CmdWord) (kv : Bool) : Nat :=
  match decode w with
  | .ok (.ldkey _) => 17
  | .ok (.decblk _) => if kv then 18 else 1
  | .error _ => 1

/-- The steps a whole script of command words takes, each offered when the one before it has answered (rules R259,
R263). -/
def scriptSteps : List CmdWord → State → Nat
  | [], _ => 0
  | w :: rest, s => commandSteps w s.kv + scriptSteps rest (transact w s)

end Sys2Proof.Machine
end

