-- ==== Sys2Proof/Machine/Step.lean ====
section
/-! DEFINITION. The step function and the fetch of a table word. -/

namespace Sys2Proof.Machine

/-- One step of the hardware (rule R12): the reset step, an accept step, an advance step, or none. -/
def step (s : State) : Host.Outcome State Fault Refusal := machineStep s

/-- `s` with the table word `w` of `nbits` bits offered by the host to an idle sequencer, so that the next step accepts
it (assumption 8): the core has no program counter and fetches nothing (rules R33, R62), it takes commands from its
command channel. -/
def State.withFetchWord (s : State) (nbits w : Nat) : State :=
  s.placeCommand (BitVec.ofNat 72 (w % 2 ^ nbits))

end Sys2Proof.Machine
end

