-- ==== Sys2Proof/Machine/Padding.lean ====
section
/-! DEFINITION. The component PaddingPolicy of the host driver (`spec/44_padding_policy.md` rules R190 to R193). It holds
no hardware state (`spec/00_scope.md` rule R4). -/

namespace Sys2Proof.Machine

/-- The errors a run of the host driver can end in (`spec/60_exceptions.md` rule R220). They are results of the host, no
faults of the machine; `ConfigurationError` is not among them, since it cannot be raised (rule R223). -/
inductive HostError where
  /-- The input length is zero or not a multiple of 8 (rules R202, R224). -/
  | inputFormatError
  /-- Bad padding in the last decrypted block (rules R193, R225). -/
  | paddingError
  /-- An I/O error, with which the spec classes a non-`OK` status or a missing response (rules R210, R226). -/
  | ioError
  deriving DecidableEq, Repr

/-- Rule R191: the pad count, the last byte of the block in stream order, a number 0..255. -/
def padCount (b : Vector Byte 8) : Nat := b[7].toNat

/-- Rule R190: `stripPadding(b[0..7])`: the first `8 - n` bytes when `n = b[7]` is in 1..8 and the last `n` bytes all
equal `n` (rule R192), else `PaddingError` (rule R193). -/
def stripPadding (b : Vector Byte 8) : Except HostError (List Byte) :=
  let n := padCount b
  if n < 1 ∨ 8 < n then .error .paddingError
  else if (b.toList.drop (8 - n)).all (fun x => x == b[7]) then .ok (b.toList.take (8 - n))
  else .error .paddingError

end Sys2Proof.Machine
end

