-- ==== Sys2Proof/Machine/Stream.lean ====
section
/-! DEFINITION. The component StreamProcessor of the host driver at the function level (`spec/45_stream_processor.md`
rules R200 to R207). Its byte strings belong to the host (`spec/20_memory.md` rule R53). -/

namespace Sys2Proof.Machine

/-- `MemRead(addr, n)` (rules R9, R53): input bytes `addr .. addr+n-1`. The driver reads only offsets inside the input
(rule R202); a byte past its end is a free value (assumption 12). -/
def memRead (input : List Byte) (addr n : Nat) : Vector Byte n :=
  Vector.ofFn fun k : Fin n => input.getD (addr + k.val) (Config.absentByte (addr + k.val))

/-- What a write at `addr` puts between the end of the output and `addr`, so that the bytes written stand at the offsets
rule R53 gives: free values (assumption 12), none when `addr` is not past the end. -/
def memGap (output : List Byte) (addr : Nat) : List Byte :=
  (List.range' output.length (addr - output.length)).map Config.absentByte

/-- `MemWrite(addr, n, v)` (rules R9, R53), `n` the number of bytes given: output bytes `addr .. addr+n-1` become `bytes`,
every other byte of the output stays. A write of no bytes changes nothing. -/
def memWrite (output : List Byte) (addr : Nat) (bytes : List Byte) : List Byte :=
  match bytes with
  | [] => output
  | _ :: _ => output.take addr ++ memGap output addr ++ bytes ++ output.drop (addr + bytes.length)

/-- Rule R202: the input length is a positive multiple of 8. -/
def inputLengthOk (input : List Byte) : Bool := input.length != 0 && input.length % 8 == 0

/-- Rule R203: the blocks of the input, block `i` from input bytes `8i .. 8i+7`, first byte most significant. -/
def cutBlocks (input : List Byte) : List Block :=
  (List.range (input.length / 8)).map fun i => blockOfBytes (memRead input (8 * i) 8)

/-- Rule R204: every block but the last, written at the offset of its source block. -/
def writeBlocks (blocks : List Block) : List Byte :=
  (List.range blocks.length).foldl
    (fun out i => memWrite out (8 * i) (bytesOfBlock (blocks.getD i 0#64)).toList) []

/-- Rules R204, R205, R207: the output of a run from its decrypted blocks `p[0..m-1]`: the padding check of the last
block comes before the first write, so an errored run delivers no output. -/
def finishStream (plain : List Block) : Except HostError (List Byte) :=
  match stripPadding (bytesOfBlock (plain.getLastD 0#64)) with
  | .error e => .error e
  | .ok tail => .ok (memWrite (writeBlocks plain.dropLast) (8 * (plain.length - 1)) tail)

/-- Rule R200: `decryptStream(key, input)`. One key schedule per stream (rule R201). -/
def decryptStream (key : Vector Byte 8) (input : List Byte) : Except HostError (List Byte) :=
  if inputLengthOk input then
    let keys := derive (blockOfBytes key)
    finishStream ((cutBlocks input).map fun c => decryptBlock c keys)
  else .error .inputFormatError

end Sys2Proof.Machine
end

