-- ==== Sys2Proof/Machine/Harness.lean ====
section
/-! DEFINITION. The test harness of the spec: `encryptBlock` (`spec/43_block_cipher.md` rule R175), "**not** an operation
of the hardware", and the padded encryption of a stream that the round-trip property of `spec/45_stream_processor.md`
rule R206 speaks of (`spec/91_not_in_source.md` N14, N21). No step of the machine calls anything here. -/

namespace Sys2Proof.Machine

/-- The halves of a block being encrypted after `r` rounds: the same network with the subkeys in forward order (rule
R175). -/
def encryptHalvesAfter (keys : RoundKeySet) (block : Block) : Nat → Halves
  | 0 => initialHalves block
  | n + 1 => feistelStep (keys.get (Fin.ofNat 16 n)) (encryptHalvesAfter keys block n)

/-- Rule R175: `encryptBlock(plainBlock, keys)`. -/
def encryptBlock (block : Block) (keys : RoundKeySet) : Block :=
  finalBlock (encryptHalvesAfter keys block 16)

/-- The pad count that makes a length a multiple of 8, in 1..8 (rules R191, R192; N21). -/
def padCountFor (len : Nat) : Nat := 8 - len % 8

/-- A plaintext padded as rule R206 requires: "every pad byte's value equals the total count of pad bytes appended". -/
def padPlaintext (plain : List Byte) : List Byte :=
  plain ++ List.replicate (padCountFor plain.length) (BitVec.ofNat 8 (padCountFor plain.length))

/-- The blocks of a stream as bytes, in order. -/
def bytesOfBlocks (blocks : List Block) : List Byte :=
  blocks.flatMap fun v => (bytesOfBlock v).toList

/-- The ciphertext of a plaintext stream under `key`: pad, cut, encrypt each block (rule R206's
`encryptWithSameSchedule`). -/
def encryptStream (key : Vector Byte 8) (plain : List Byte) : List Byte :=
  bytesOfBlocks ((cutBlocks (padPlaintext plain)).map fun p => encryptBlock p (derive (blockOfBytes key)))

end Sys2Proof.Machine
end

