-- ==== Sys2Proof/Machine/Driver.lean ====
section
/-! DEFINITION. The host driver's run over the hardware (`spec/45_stream_processor.md` rule R208): the expansion of
`DECSTREAM` into commands, issued one at a time to the machine, each waiting for the response to the one before it. -/

namespace Sys2Proof.Machine

/-- Rule R208: the command words of a run over the blocks `blocks` with key `key`: one LDKEY, then one DECBLK per block in
stream order. -/
def streamCommands (key : Key) (blocks : List Block) : List CmdWord :=
  encode (.ldkey key) :: blocks.map fun c => encode (.decblk c)

/-- Take steps until the trace holds one response more than the `n` it held, at most `fuel` of them; the response, if it
came, and the state then. A step that stops the machine is a missing response (rule R210). -/
def awaitResponse : Nat → Nat → State → Option RspWord × State
  | 0, _, s => (none, s)
  | fuel + 1, n, s =>
    match step s with
    | .next t => if t.out.length = n + 1 then (t.out.getLast?, t) else awaitResponse fuel n t
    | .fault _ => (none, s)
    | .refused _ => (none, s)

/-- Take steps until `cmd_ready = 1`, at most `fuel` of them. -/
def awaitReady : Nat → State → Option State
  | 0, s => if s.cmdReady then some s else none
  | fuel + 1, s =>
    if s.cmdReady then some s
    else
      match step s with
      | .next t => awaitReady fuel t
      | .fault _ => none
      | .refused _ => none

/-- The steps the driver gives an operation in progress to end: "at most 17 further steps" (rule R28; assumption 11). -/
def readyFuel : Nat := 17

/-- The steps the driver gives a command to answer: 17 or 18, the accept step counted (rule R259; assumption 11). -/
def responseFuel : Nat := 18

/-- Rule R208: "Each command is issued when `cmd_ready = 1`": wait for that, offer the word, alone, and take its
response. -/
def issue (w : CmdWord) (s : State) : Option RspWord × State :=
  match awaitReady readyFuel (s.withHost []) with
  | none => (none, s)
  | some t => awaitResponse responseFuel t.out.length (t.withHost [.command w])

/-- Rules R208, R210: the response the driver expects, `(OK, val)`; any other is a device failure. -/
def expectOk (r : Option RspWord) : Option Block :=
  match r with
  | some w => if rspSt w = Status.ok.code then some (rspVal w) else none
  | none => none

/-- Rule R208, step 3: one DECBLK per block in stream order; the plaintext blocks, unless a response is missing or not
`OK`. -/
def issueBlocks : List Block → State → Option (List Block) × State
  | [], s => (some [], s)
  | c :: rest, s =>
    let (r, t) := issue (encode (.decblk c)) s
    match expectOk r with
    | none => (none, t)
    | some p =>
      match issueBlocks rest t with
      | (none, u) => (none, u)
      | (some ps, u) => (some (p :: ps), u)

/-- Rule R208: the run of the driver over the hardware: its result, and the hardware's state at its end. -/
def driveStream (key : Vector Byte 8) (input : List Byte) (s : State) : Except HostError (List Byte) × State :=
  if inputLengthOk input then
    let (r, t) := issue (encode (.ldkey (blockOfBytes key))) s
    match expectOk r with
    | none => (.error .ioError, t)
    | some _ =>
      match issueBlocks (cutBlocks input) t with
      | (none, u) => (.error .ioError, u)
      | (some ps, u) => (finishStream ps, u)
  else (.error .inputFormatError, s)

end Sys2Proof.Machine
end

