-- ==== Sys2Proof/Machine/Script.lean ====
section
/-! DEFINITION. Command scripts (`spec/30_encoding.md` rules R77, R78): what a script item makes the host drive, the
expansion of `DECSTREAM`, and the text syntax of a script line. -/

namespace Sys2Proof.Machine

/-- What the host drives for a script item: a command word held until it is accepted (rules R77, R254), or `rst`. -/
def hostItemOf : ScriptItem → HostItem
  | .ldkey key => .command (encode (.ldkey key))
  | .decblk block => .command (encode (.decblk block))
  | .raw word => .command word
  | .reset => .reset

/-- What the host drives for a script, item by item. DESIGN CHOICE (assumption 16): rules R77 and R263 do not say when a
`RESET` line acts on the command before it, so the caller says it: before the `k`-th item, if it is a `RESET`, the host
offers nothing for `wait k` steps and asserts `rst` at the step after them. A command may be accepted and run meanwhile;
`wait k` large enough lets it answer, a smaller one has the reset abandon it (program P5 of `spec/95_test_vectors.md`). -/
def scriptHost (wait : Nat → Nat) : Nat → List ScriptItem → List HostItem
  | _, [] => []
  | k, .ldkey key :: rest => hostItemOf (.ldkey key) :: scriptHost wait (k + 1) rest
  | k, .decblk block :: rest => hostItemOf (.decblk block) :: scriptHost wait (k + 1) rest
  | k, .raw word :: rest => hostItemOf (.raw word) :: scriptHost wait (k + 1) rest
  | k, .reset :: rest => List.replicate (wait k) .idle ++ hostItemOf .reset :: scriptHost wait (k + 1) rest

/-- The machine with a script to run, its resets timed by `wait` (`scriptHost`, assumption 16). -/
def loadScript (wait : Nat → Nat) (script : List ScriptItem) (s : State) : State :=
  s.withHost (scriptHost wait 0 script)

/-- Rule R78: `DECSTREAM` expands to one LDKEY and one DECBLK per 8 input bytes; "if the byte count is zero or not a
multiple of 8 it expands to no command at all". -/
def expandStream (d : DecStream) : List ScriptItem :=
  if inputLengthOk d.input then .ldkey (blockOfBytes d.key) :: (cutBlocks d.input).map .decblk else []

/-! ### Text syntax -/

/-- What a script line may give as the outcome after `->` (rule R77) or `=>` (rule R78). -/
inductive Expectation where
  /-- Nothing is stated. -/
  | none
  /-- `-> <status name> 0x<16 hex digits>`. -/
  | response (st : Status) (val : Block)
  /-- `=> <hex bytes of the plaintext>`. -/
  | plaintext (bytes : List Byte)
  /-- `=> <error name>`. -/
  | error (e : HostError)
  deriving DecidableEq, Repr

/-- One line of a script file. -/
inductive ScriptLine where
  /-- A line with nothing before its comment. -/
  | blank
  /-- A script item (rule R77) and the response stated for it. -/
  | item (i : ScriptItem) (e : Expectation)
  /-- `DECSTREAM 0x<key>, <bytes>` (rule R78) and the result stated for it. -/
  | stream (d : DecStream) (e : Expectation)
  /-- A line that starts with `=>`: the result of the `DECSTREAM` line before it (assumption 13). -/
  | result (e : Expectation)
  deriving DecidableEq, Repr

/-- The value of a hexadecimal digit, either case (assumption 13). -/
def hexDigit (c : Char) : Option Nat := "0123456789ABCDEF".toList.idxOf? c.toUpper

/-- The number a list of hexadecimal digits spells, the leftmost the most significant (rule R7). -/
def hexNumber (digits : List Char) : Option Nat :=
  (digits.mapM hexDigit).map (Nat.ofDigits 16 ·.reverse)

/-- `0x` and exactly `n` hexadecimal digits (rules R7, R77), as a value of width `4 n`. -/
def hexLiteral (n : Nat) (token : List Char) : Option (BitVec (4 * n)) :=
  match token with
  | '0' :: 'x' :: digits =>
    if digits.length = n then (hexNumber digits).map (BitVec.ofNat (4 * n)) else none
  | _ => none

/-- One byte of a byte string, two hexadecimal digits (rule R78). -/
def hexByte (token : List Char) : Option Byte :=
  if token.length = 2 then (hexNumber token).map (BitVec.ofNat 8) else none

/-- The bytes of a byte string, all of them well-formed (rule R78). -/
def hexBytes (tokens : List (List Char)) : Option (List Byte) := tokens.mapM hexByte

/-- The line without its comment: `;` "starts a comment that runs to the end of the line" (rule R77). DESIGN CHOICE
(assumption 13): the programs of `spec/95_test_vectors.md` section 5 write `->` and the response behind a `;`; the rule is
kept as it stands, so a response written there is comment and the item states none. -/
def withoutComment (line : List Char) : List Char := line.takeWhile fun c => c != ';'

/-- The tokens of a line: maximal runs of characters other than spaces, tabs and commas (assumption 13). -/
def tokens (line : List Char) : List (List Char) :=
  (line.splitOnP fun c => c == ' ' || c == '\t' || c == ',').filter fun t => !t.isEmpty

/-- A status by the name rule R73 gives it. -/
def statusName (token : List Char) : Option Status :=
  if token = "OK".toList then some .ok
  else if token = "ILLEGAL_OP".toList then some .illegalOp
  else if token = "NO_KEY".toList then some .noKey
  else none

/-- What stands after a command: nothing, or `-> <status name> 0x<16 hex digits>` (rule R77). -/
def parseResponse (rest : List (List Char)) : Option Expectation :=
  match rest with
  | [] => some .none
  | [arrow, name, value] =>
    if arrow = "->".toList then
      match statusName name, hexLiteral 16 value with
      | some st, some v => some (.response st v)
      | _, _ => none
    else none
  | _ => none

/-- What stands after a `DECSTREAM`: nothing, or `=> <hex bytes>` or `=> <error name>` (rule R78). -/
def parseResult (rest : List (List Char)) : Option Expectation :=
  match rest with
  | [] => some .none
  | arrow :: result =>
    if arrow = "=>".toList then
      if result = ["InputFormatError".toList] then some (.error .inputFormatError)
      else if result = ["PaddingError".toList] then some (.error .paddingError)
      else (hexBytes result).map .plaintext
    else none

/-- A command line whose operand is `0x` and `n` digits. -/
def parseItem (n : Nat) (mk : BitVec (4 * n) → ScriptItem) (rest : List (List Char)) : Option ScriptLine :=
  match rest with
  | operand :: after =>
    match hexLiteral n operand, parseResponse after with
    | some v, some e => some (.item (mk v) e)
    | _, _ => none
  | [] => none

/-- The operands of a `DECSTREAM` line (rule R78): the key, then the ciphertext bytes up to `=>`. -/
def parseStream (rest : List (List Char)) : Option ScriptLine :=
  match rest with
  | key :: after =>
    match hexLiteral 16 key,
        hexBytes (after.takeWhile fun t => t != "=>".toList),
        parseResult (after.dropWhile fun t => t != "=>".toList) with
    | some k, some bytes, some e => some (.stream ⟨bytesOfBlock k, bytes⟩ e)
    | _, _, _ => none
  | [] => none

/-- One line of a script (rules R77, R78): "One item per line", mnemonics in upper case; none for a line of another
form. DESIGN CHOICE (assumption 13): rule R78 does not say whether the `=>` of a `DECSTREAM` must stand on its line, and
program P3 of `spec/95_test_vectors.md` puts it on the next; both are read, the second as a line of its own. -/
def parseLine (line : List Char) : Option ScriptLine :=
  match tokens (withoutComment line) with
  | [] => some .blank
  | mnemonic :: rest =>
    if mnemonic = "LDKEY".toList then parseItem 16 .ldkey rest
    else if mnemonic = "DECBLK".toList then parseItem 16 .decblk rest
    else if mnemonic = "RAW".toList then parseItem 18 .raw rest
    else if mnemonic = "RESET".toList then (if rest = [] then some (.item .reset .none) else none)
    else if mnemonic = "DECSTREAM".toList then parseStream rest
    else if mnemonic = "=>".toList then (parseResult (mnemonic :: rest)).map .result
    else none

end Sys2Proof.Machine
end

