-- ==== Sys2Proof/Safety.lean ====
section
/-! DEFINITION. What a safe run of the core is: the invariant of reachable states (`spec/10_state.md` rule R37), the legal
moves of the phase (rule R25), what the host can observe (`spec/00_scope.md` rule R13), and when two states are the same
to it. -/

namespace Sys2Proof.Machine

/-- Rule R26: `RK[1..16]` holds the sixteen subkeys of one Key. -/
def State.holdsKey (s : State) : Prop := ∃ key : Key, s.RK = derive key

/-- Rule R37 for `phase = IDLE`: `rc` is 0, with no key loaded, or 16, with one. -/
def idleInv (s : State) : Prop :=
  (s.rc = 0#5 ∧ s.kv = false) ∨ (s.rc = 16#5 ∧ s.kv = true ∧ s.holdsKey)

/-- Rule R37 for `phase = KS` with `rc = n`: `0 <= n <= 15`, `kv = 0`, and for the key being loaded `RK[1..n]` hold
K₁..Kₙ and `C`, `D` hold Cₙ, Dₙ. -/
def ksInv (s : State) : Prop :=
  s.rc.toNat ≤ 15 ∧ s.kv = false ∧
    ∃ key : Key, s.keyHalves = keyHalvesAfter key s.rc.toNat ∧
      ∀ r : Round, r.val < s.rc.toNat → s.RK.get r = (derive key).get r

/-- Rule R37 for `phase = RND` with `rc = n`: `0 <= n <= 15`, `kv = 1`, and `L`, `R` hold Lₙ, Rₙ of the block being
decrypted. -/
def rndInv (s : State) : Prop :=
  s.rc.toNat ≤ 15 ∧ s.kv = true ∧ s.holdsKey ∧
    ∃ block : Block, s.halves = halvesAfter s.RK block s.rc.toNat

/-- Rule R37 for `phase = FIN`: `rc = 16`, `kv = 1`, and `L`, `R` hold L₁₆, R₁₆. -/
def finInv (s : State) : Prop :=
  s.rc = 16#5 ∧ s.kv = true ∧ s.holdsKey ∧
    ∃ block : Block, s.halves = halvesAfter s.RK block 16

/-- Rules R71, R73: every response of the trace carries one of the three statuses, and no value unless it is `OK`. -/
def State.traceWf (s : State) : Prop := ∀ w ∈ s.out, rspWellFormed w = true

/-- Rule R37: the invariant of reachable states. -/
def State.Inv (s : State) : Prop :=
  s.traceWf ∧
    match s.phase with
    | .idle => idleInv s
    | .ks => ksInv s
    | .rnd => rndInv s
    | .fin => finInv s

/-- Rule R25: the transitions of the phase, and no others. A step from `s` may leave the phase `p`. -/
def phaseMove (s : State) (p : Phase) : Prop :=
  if s.rstPort then p = .idle
  else match s.phase with
    | .idle =>
      match s.cmdPort with
      | none => p = .idle
      | some w =>
        match decode w with
        | .ok (.ldkey _) => p = .ks
        | .ok (.decblk _) => p = if s.kv then .rnd else .idle
        | .error _ => p = .idle
    | .ks => p = if s.rc.toNat < 15 then .ks else .idle
    | .rnd => p = if s.rc.toNat < 15 then .rnd else .fin
    | .fin => p = .idle

/-- Rule R13: what the host can observe: the response trace, `cmd_ready` and `kv`. -/
structure Observation where
  /-- The response trace `out`. -/
  out : List RspWord
  /-- The port `cmd_ready`. -/
  cmdReady : Bool
  /-- The port `kv`. -/
  kv : Bool
  deriving DecidableEq, Repr

/-- The observation of a state (rule R13). -/
def State.observe (s : State) : Observation := ⟨s.out, s.cmdReady, s.kvPort⟩

/-- `k` steps of the machine. -/
def runSteps (k : Nat) (s : State) : Host.Outcome State Fault Refusal := Sys2Proof.core.run k s

/-- The host asserts no reset at the next `k` steps of a busy sequencer, which accepts no command (rule R261: "no reset
intervenes"). -/
def busyResetFree : Nat → List HostItem → Bool
  | 0, _ => true
  | k + 1, h => h.head? != some .reset && busyResetFree k (hostAfterTick h)

/-- The host's list after `k` steps of a busy sequencer. -/
def hostAfterTicks (k : Nat) (h : List HostItem) : List HostItem := hostAfterTick^[k] h

/-- A run from `s` never stops: every number of steps answers a next state. -/
def State.Safe (s : State) : Prop := ∀ k, ∃ t, runSteps k s = .next t

end Sys2Proof.Machine
end

