-- ==== Sys2Proof/Certificates/Slice0/Obligations.lean ====
section
/-! DEFINITION. The statements for the provers, each about the machine and no program. A docstring names the rule of
`spec/` a statement formalises, and says so where the spec marks the sentence as its own inference ("[derived: …]") or
where the model made a choice (the log entry's number). -/

open Sys2Proof Sys2Proof.Machine

/-! ### Encoding -/

/-- `spec/95_test_vectors.md` section 3.1: the command words it writes out decode to what it says. -/
def Obligations.WrittenWordsDecode : Prop :=
  decode 0x01133457799BBCDFF1#72 = .ok (.ldkey 0x133457799BBCDFF1#64) ∧
  decode 0x010000000000000000#72 = .ok (.ldkey 0x0000000000000000#64) ∧
  decode 0x0285E813540F0AB405#72 = .ok (.decblk 0x85E813540F0AB405#64) ∧
  decode 0x000000000000000000#72 = .error (.reservedOpcode 0x00#8) ∧
  decode 0x03133457799BBCDFF1#72 = .error (.reservedOpcode 0x03#8) ∧
  decode 0x110000000000000000#72 = .error (.reservedOpcode 0x11#8) ∧
  decode 0xFF0123456789ABCDEF#72 = .error (.reservedOpcode 0xFF#8)

/-- Rule R79 (with R70, R72): the opcode is the number above bit 63, the operand the number below it; `0x01` is LDKEY,
`0x02` is DECBLK, every other opcode is refused by its number, for all 2^72 command words. -/
def Obligations.DecodeFollowsTheOpcodeMap : Prop :=
  ∀ w : CmdWord,
    (w.toNat / 2 ^ 64 = 0x01 → decode w = .ok (.ldkey (BitVec.ofNat 64 (w.toNat % 2 ^ 64)))) ∧
    (w.toNat / 2 ^ 64 = 0x02 → decode w = .ok (.decblk (BitVec.ofNat 64 (w.toNat % 2 ^ 64)))) ∧
    (w.toNat / 2 ^ 64 ≠ 0x01 → w.toNat / 2 ^ 64 ≠ 0x02 →
      decode w = .error (.reservedOpcode (BitVec.ofNat 8 (w.toNat / 2 ^ 64))))

/-- `spec/30_encoding.md` sections 1 and 3: decoding and encoding agree both ways, with every operand at every value. A
word decodes to an instruction exactly when it is that instruction's word, and to none exactly when it is no defined
command word. -/
def Obligations.DecodeAndEncodeAgree : Prop :=
  ∀ w : CmdWord,
    (∀ i : Instr, decode w = .ok i ↔ w = encode i) ∧
    ((∃ i : Instr, i.wellFormed = true ∧ decode w = .ok i) ↔ cmdWellFormed w = true)

/-- `spec/30_encoding.md` section 1 (the response format) and section 3 (the status codes): `st` lies in bits 71:64 and
`val` in bits 63:0. -/
def Obligations.ResponseWordHoldsStatusAndValue : Prop :=
  ∀ (st : Status) (val : Block),
    (rspWord st val).toNat = st.code.toNat * 2 ^ 64 + val.toNat ∧
    rspSt (rspWord st val) = st.code ∧ rspVal (rspWord st val) = val ∧ Status.ofCode st.code = some st

/-! ### The cipher's functions -/

/-- `spec/40_bit_permutation.md` section 1, the definition of `permute`: output position `i` holds the input's position
`T[i]`, for every table that is well-formed. -/
def Obligations.PermuteCopiesTheNamedPosition : Prop :=
  ∀ (w n : Nat) (v : BitVec w) (T : PermTable w n) (i : Nat), 1 ≤ i → i ≤ n →
    ∃ p, T.entries[i - 1]? = some p ∧ pos (permute v T) i = pos v p

/-- `spec/40_bit_permutation.md` section 1, corner cases ("[derived: from the definition …]"): zero to zero, all ones to
all ones, and linear over exclusive-or. -/
def Obligations.PermuteIsLinear : Prop :=
  ∀ (w n : Nat) (T : PermTable w n),
    permute 0#w T = 0#n ∧ permute (BitVec.allOnes w) T = BitVec.allOnes n ∧
    ∀ a b : BitVec w, permute (a ^^^ b) T = permute a T ^^^ permute b T

/-- `spec/40_bit_permutation.md` section 3 ("[derived: by evaluation …]"): the sums of the entries of the six tables, and
that IP, IP⁻¹ and P are permutations, PC-1 omits exactly the parity positions, PC-2 takes its left 24 entries from C and
its right 24 from D. -/
def Obligations.TablesPassTheSpecsChecks : Prop :=
  ip.entries.sum = 2080 ∧ ipInv.entries.sum = 2080 ∧ pc1.entries.sum = 1792 ∧ pc2.entries.sum = 1352 ∧
  expansionE.entries.sum = 792 ∧ permP.entries.sum = 528 ∧
  (∀ p, p ∈ List.range' 1 64 → ip.entries.count p = 1 ∧ ipInv.entries.count p = 1 ∧
    pc1.entries.count p = if p % 8 = 0 then 0 else 1) ∧
  (∀ p, p ∈ List.range' 1 32 → permP.entries.count p = 1) ∧
  (∀ p, p ∈ pc2.entries.take 24 → p ≤ 28) ∧ (∀ p, p ∈ pc2.entries.drop 24 → 29 ≤ p)

/-- `spec/40_bit_permutation.md` section 2, table IP⁻¹ ("[derived: checked entry by entry …]"): the final permutation is
the inverse of the initial one, both ways round. -/
def Obligations.FinalPermutationInvertsTheInitial : Prop :=
  ∀ v : BitVec 64, permute (permute v ip) ipInv = v ∧ permute (permute v ipInv) ip = v

/-- `spec/00_scope.md` section 4: `rotl28(x, n)` is `((x * 2^n) mod 2^28) + (x div 2^(28-n))` for `n` in {1, 2}. -/
def Obligations.RotationFollowsItsFormula : Prop :=
  ∀ (x : HalfKey) (n : Nat), n = 1 ∨ n = 2 →
    (rotl28 x n).toNat = (x.toNat * 2 ^ n) % 2 ^ 28 + x.toNat / 2 ^ (28 - n)

/-- Rule R112: the rotation amounts, 1 for rounds 1, 2, 9, 16 and 2 otherwise, and "The rotations are cumulative": Cᵣ is
C₀ rotated left by the total so far, and Dᵣ is D₀ so rotated. -/
def Obligations.HalvesAreCumulativeRotations : Prop :=
  (∀ r : Round, shift r = if r.val + 1 ∈ [1, 2, 9, 16] then 1 else 2) ∧
  ∀ (key : Key) (n : Nat), n ≤ 16 →
    (keyHalvesAfter key n).C =
      (initialKeyHalves key).C.rotateLeft ((List.range' 1 n).map fun r => shift (Fin.ofNat 16 (r - 1))).sum ∧
    (keyHalvesAfter key n).D =
      (initialKeyHalves key).D.rotateLeft ((List.range' 1 n).map fun r => shift (Fin.ofNat 16 (r - 1))).sum

/-- Rule R110: `derive` is the loop the rule writes out, over registers C and D, appending one subkey a round. -/
def Obligations.DeriveIsTheSchedulesLoop : Prop :=
  ∀ key : Key,
    (derive key).toList =
      ((List.range' 1 16).foldl
        (fun (st : HalfKey × HalfKey × List Subkey) r =>
          let c := rotl28 st.1 (shift (Fin.ofNat 16 (r - 1)))
          let d := rotl28 st.2.1 (shift (Fin.ofNat 16 (r - 1)))
          (c, d, st.2.2 ++ [permute (c ++ d) pc2]))
        ((permute key pc1).extractLsb' 28 28, (permute key pc1).extractLsb' 0 28, [])).2.2

/-- `spec/41_key_schedule.md` section 2 ("[derived: from rule R111 …]"): two keys that differ only in positions 8, 16,
..., 64 have the same C₀, D₀ and the same RoundKeySet. -/
def Obligations.ParityPositionsDoNotReachTheSubkeys : Prop :=
  ∀ k₁ k₂ : Key, (∀ p, 1 ≤ p → p ≤ 64 → p % 8 ≠ 0 → pos k₁ p = pos k₂ p) →
    initialKeyHalves k₁ = initialKeyHalves k₂ ∧ derive k₁ = derive k₂

/-- `spec/41_key_schedule.md` section 2 ("[derived: from rule R112 …]"): the rotations total 28, so C₁₆ = C₀ and
D₁₆ = D₀. -/
def Obligations.FullScheduleRestoresTheHalves : Prop :=
  ∀ key : Key, keyHalvesAfter key 16 = initialKeyHalves key

/-- `spec/41_key_schedule.md` section 2 ("[derived: by evaluation …]"): "two keys that differ in any non-parity position
give RoundKeySets that differ in at least 12 subkeys". -/
def Obligations.EveryNonParityBitReachesTwelveSubkeys : Prop :=
  ∀ (k₁ k₂ : Key) (p : Nat), 1 ≤ p → p ≤ 64 → p % 8 ≠ 0 → pos k₁ p ≠ pos k₂ p →
    12 ≤ (List.finRange 16).countP fun r => (derive k₁).get r != (derive k₂).get r

/-- Rules R133, R134, R143: group `j` is positions `6(j-1)+1 .. 6j` of `x`; with its bits b1..b6, the row is
`2*b1 + b6`, the column `8*b2 + 4*b3 + 2*b4 + b5`; the entry is positions `4(j-1)+1 .. 4j` of `s`. Lane `j - 1` is the
value `j` of the statement. -/
def Obligations.EachSBoxLaneLooksUpItsGroup : Prop :=
  ∀ (x : Subkey) (j : Fin 8),
    (substitute x).extractLsb' (28 - 4 * j.val) 4 =
      ((sbox j).get (Fin.ofNat 4 (2 * (pos x (6 * j.val + 1)).toNat + (pos x (6 * j.val + 6)).toNat))).get
        (Fin.ofNat 16 (8 * (pos x (6 * j.val + 2)).toNat + 4 * (pos x (6 * j.val + 3)).toNat +
          2 * (pos x (6 * j.val + 4)).toNat + (pos x (6 * j.val + 5)).toNat))

/-- `spec/42_feistel_round.md` section 1, corner cases ("[derived: from rule R130 by evaluation …]"): complementing both
operands of `f` leaves its result unchanged. -/
def Obligations.RoundFunctionIgnoresDoubleComplement : Prop :=
  ∀ (half : HalfBlock) (subkey : Subkey), feistel (~~~half) (~~~subkey) = feistel half subkey

/-- Rule R160 (with R161 to R165): `decryptBlock` is the loop the rule writes out, round `r` with `keys[17 - r]` (entry
`17 - r - 1` of the vector), both halves from the old pair, then `R ‖ L` through IP⁻¹. -/
def Obligations.DecryptBlockIsTheCiphersLoop : Prop :=
  ∀ (block : Block) (keys : RoundKeySet),
    decryptBlock block keys =
      (fun lr : HalfBlock × HalfBlock => permute (lr.2 ++ lr.1) ipInv)
        ((List.range' 1 16).foldl
          (fun (lr : HalfBlock × HalfBlock) r =>
            (lr.2, lr.1 ^^^ feistel lr.2 (keys.get (Fin.ofNat 16 (17 - r - 1)))))
          ((permute block ip).extractLsb' 32 32, (permute block ip).extractLsb' 0 32))

/-- `spec/43_block_cipher.md` section 3 ("[derived: from rule R160, rule R175 …]"): "For every RoundKeySet `keys` and every
64-bit `p`, `decryptBlock(encryptBlock(p, keys), keys) = p`, and also" the other order. -/
def Obligations.DecryptionInvertsEncryption : Prop :=
  ∀ (keys : RoundKeySet) (p : Block),
    decryptBlock (encryptBlock p keys) keys = p ∧ encryptBlock (decryptBlock p keys) keys = p

/-- `spec/95_test_vectors.md` section 3.5 ("[derived: from `42_feistel_round.md` rule R148 …]"): "the bitwise complement
of key and block together complements the result". -/
def Obligations.ComplementingKeyAndBlockComplementsThePlaintext : Prop :=
  ∀ (key : Key) (block : Block),
    decryptBlock (~~~block) (derive (~~~key)) = ~~~(decryptBlock block (derive key))

/-- Rule R54: byte `b[k]` of a 64-bit value is bits `63-8k : 56-8k`, and the eight bytes and the value give each other
back. -/
def Obligations.BytesAndBlocksAreBigEndian : Prop :=
  (∀ (v : BitVec 64) (k : Fin 8), ((bytesOfBlock v).get k).toNat = v.toNat / 2 ^ (56 - 8 * k.val) % 2 ^ 8) ∧
  (∀ v : BitVec 64, blockOfBytes (bytesOfBlock v) = v) ∧
  (∀ b : Vector Byte 8, bytesOfBlock (blockOfBytes b) = b)

/-! ### Accept steps -/

/-- Rule R121: LDKEY completes its accept step in every idle state, with every key, and this is the state it leaves: C₀ and
D₀ from PC-1, `rc = 0`, `kv = 0`, `phase = KS`, everything else as it was, no response. -/
def Obligations.LdkeyAcceptStepLoadsTheHalves : Prop :=
  ∀ (key : Key) (s : State), s.phase = .idle →
    exec (.ldkey key) s = .next { s with
      C := (permute key pc1).extractLsb' 28 28
      D := (permute key pc1).extractLsb' 0 28
      rc := 0#5
      kv := false
      phase := .ks }

/-- Rule R169: DECBLK completes its accept step in every idle state, with every block. With `kv = 1` this is the state it
leaves: L₀ and R₀ from IP, `rc = 0`, `phase = RND`, everything else as it was, no response; with `kv = 0` the step is that
of rule R222: the response `(NO_KEY, 0)`, everything else as it was, `phase` among it. -/
def Obligations.DecblkAcceptStepLoadsTheHalves : Prop :=
  ∀ (block : Block) (s : State), s.phase = .idle →
    (s.kv = true → exec (.decblk block) s = .next { s with
      L := (permute block ip).extractLsb' 32 32
      R := (permute block ip).extractLsb' 0 32
      rc := 0#5
      phase := .rnd }) ∧
    (s.kv = false → exec (.decblk block) s = .next { s with out := s.out ++ [0x020000000000000000#72] })

/-- Rule R222: a DECBLK accepted while `kv = 0` appends `(NO_KEY, 0)` "and nothing else"; and `kv = 0` after reset until an
LDKEY completes: no step but the sixteenth KS step takes `kv` from 0 to 1. -/
def Obligations.DecblkWithoutAKeyAnswersNoKey : Prop :=
  (∀ (block : Block) (s : State), s.phase = .idle → s.kv = false →
    exec (.decblk block) s = .next { s with out := s.out ++ [0x020000000000000000#72] }) ∧
  (∀ s t : State, s.rstPort = true → step s = .next t → t.kv = false) ∧
  (∀ s t : State, step s = .next t → s.kv = false → t.kv = true →
    s.rstPort = false ∧ s.phase = .ks ∧ s.rc = 15#5)

/-- Rule R221: a reserved opcode, accepted while idle, is answered `(ILLEGAL_OP, 0)` "and nothing else", whatever `arg` and
`kv` are; the machine is ready for the next command at once. -/
def Obligations.ReservedOpcodeAnswersIllegalOp : Prop :=
  ∀ (op : Opcode) (arg : BitVec 64) (s : State), op ≠ 0x01#8 → op ≠ 0x02#8 →
    s.phase = .idle → s.cmdPort = some (op ++ arg) →
    ∃ t, step s = .next t ∧
      t = { s with out := s.out ++ [0x010000000000000000#72], host := s.host.tail } ∧ t.cmdReady = true

/-- What the accept step of a command leaves unchanged (the frame of both instructions; `spec/41_key_schedule.md` section
3, `spec/43_block_cipher.md` section 2). -/
def Obligations.AcceptStepsLeaveTheRestUnchanged : Prop :=
  (∀ (key : Key) (s t : State), exec (.ldkey key) s = .next t →
    t.RK = s.RK ∧ t.L = s.L ∧ t.R = s.R ∧ t.out = s.out ∧ t.host = s.host ∧ t.draws = s.draws) ∧
  (∀ (block : Block) (s t : State), exec (.decblk block) s = .next t →
    t.RK = s.RK ∧ t.kv = s.kv ∧ t.C = s.C ∧ t.D = s.D ∧ t.host = s.host ∧ t.draws = s.draws ∧
    (s.kv = true → t.out = s.out) ∧
    (s.kv = false → t.L = s.L ∧ t.R = s.R ∧ t.rc = s.rc ∧ t.phase = s.phase))

/-- Rule R28: `cmd_ready = 1` exactly when idle; while busy no command is accepted: an offered command stays offered, and the
step is the one taken when nothing is offered, so it is no error either; and the sequencer's own steps return it to `IDLE`
after at most 17 further steps (from every state that meets the invariant, with no reset in between). That `exec` of an
instruction at a busy sequencer answers the same state is the model's reading of "it waits" (assumption 5), and that the
host's offers stand in a list is its choice (assumption 3). -/
def Obligations.BusySequencerLetsCommandsWait : Prop :=
  (∀ s : State, s.cmdReady = true ↔ s.phase = .idle) ∧
  (∀ (i : Instr) (s : State), s.phase ≠ .idle → exec i s = .next s) ∧
  (∀ (w : CmdWord) (rest : List HostItem) (s t : State), s.phase ≠ .idle → s.host = .command w :: rest →
    step s = .next t → t.host = s.host ∧ step (s.withHost []) = .next (t.withHost [])) ∧
  (∀ s : State, s.Inv → s.phase ≠ .idle → busyResetFree 17 s.host = true →
    ∃ k t, k ≤ 17 ∧ runSteps k s = .next t ∧ t.phase = .idle)

/-! ### Steps -/

/-- The model's fetch (assumption 8): a step of an idle machine to which the host offers a command word is `exec` of the
decoded instruction, the host moved on past the accepted offer; and a table word placed by `withFetchWord` is run by the
very next step. -/
def Obligations.StepRunsTheDecodedInstruction : Prop :=
  (∀ (s : State) (w : CmdWord) (i : Instr), s.phase = .idle → s.cmdPort = some w → decode w = .ok i →
    step s = exec i { s with host := s.host.tail }) ∧
  (∀ (s : State) (i : Instr), step (s.withFetchWord 72 (encode i).toNat) = exec i { s with phase := .idle })

/-- Rule R122: one KS step, with `r = rc + 1`: the halves rotated by `SHIFT[r]`, `RK[r]` from the new `C ‖ D`, `rc = r`;
the sixteenth also sets `kv`, returns to `IDLE` and responds `(OK, 0)`. Everything else stays. -/
def Obligations.KsStepRunsOneScheduleRound : Prop :=
  ∀ (s : State) (r : Round), s.rstPort = false → s.phase = .ks → s.rc.toNat = r.val →
    ∃ t, step s = .next t ∧
      t.C = rotl28 s.C (shift r) ∧ t.D = rotl28 s.D (shift r) ∧
      t.RK.get r = permute (rotl28 s.C (shift r) ++ rotl28 s.D (shift r)) pc2 ∧
      (∀ q : Round, q ≠ r → t.RK.get q = s.RK.get q) ∧
      t.rc.toNat = r.val + 1 ∧ t.L = s.L ∧ t.R = s.R ∧ t.draws = s.draws ∧
      (r.val = 15 → t.kv = true ∧ t.phase = .idle ∧ t.out = s.out ++ [0x000000000000000000#72]) ∧
      (r.val ≠ 15 → t.kv = s.kv ∧ t.phase = .ks ∧ t.out = s.out)

/-- Rule R170: one RND step, with `r = rc + 1`: `(L, R) <- (R, L ^ f(R, RK[17 - r]))` from the old pair, `rc = r`; the
sixteenth goes to `FIN`. Everything else stays, `RK` among it. -/
def Obligations.RndStepRunsOneFeistelRound : Prop :=
  ∀ (s : State) (r : Round), s.rstPort = false → s.phase = .rnd → s.rc.toNat = r.val →
    step s = .next { s with
      L := s.R
      R := s.L ^^^ feistel s.R (s.RK.get (Fin.ofNat 16 (15 - r.val)))
      rc := BitVec.ofNat 5 (r.val + 1)
      phase := if r.val = 15 then .fin else .rnd
      host := hostAfterTick s.host }

/-- Rule R171: the FIN step responds `(OK, plain)` with `plain` from `R ‖ L` through IP⁻¹ and returns to `IDLE`; "`L`, `R`
and `rc` keep their values", and so does everything else. -/
def Obligations.FinStepDeliversThePlaintext : Prop :=
  ∀ s : State, s.rstPort = false → s.phase = .fin →
    step s = .next { s with
      out := s.out ++ [0x00#8 ++ permute (s.R ++ s.L) ipInv]
      phase := .idle
      host := hostAfterTick s.host }

/-- Rule R250: the reset step, enabled in every state and overriding every other step; it "is the only way `kv` goes from 1
to 0 other than a new LDKEY, and the only way to abandon an operation". Nothing is said of the datapath registers, which
the rule leaves unspecified (assumption 2). -/
def Obligations.ResetStepClearsTheControlState : Prop :=
  (∀ s : State, s.rstPort = true →
    ∃ t, step s = .next t ∧ t.phase = .idle ∧ t.rc = 0#5 ∧ t.kv = false ∧ t.out = [] ∧ t.host = s.host.tail) ∧
  (∀ s t : State, step s = .next t → s.kv = true → t.kv = false →
    s.rstPort = true ∨ (s.phase = .idle ∧ ∃ w key, s.cmdPort = some w ∧ decode w = .ok (.ldkey key))) ∧
  (∀ s t : State, step s = .next t → s.rstPort = false → s.phase ≠ .idle → t.phase = .idle →
    ∃ val : Block, t.out = s.out ++ [0x00#8 ++ val])

/-- Rule R34: the state after reset, for every content of the datapath registers: `phase = IDLE`, `rc = 0`, `kv = 0`,
`out` empty; ports `cmd_ready = 1`, `rsp_valid = 0`, `kv = 0`. `State.reset` is one of these states (its datapath values are
the model's choice, assumption 1, and nothing here rests on them). -/
def Obligations.StateAfterResetIsAsStated : Prop :=
  (∀ dp : Datapath,
    (State.launch dp).phase = .idle ∧ (State.launch dp).rc = 0#5 ∧ (State.launch dp).kv = false ∧
    (State.launch dp).out = [] ∧ (State.launch dp).datapath = dp ∧
    (State.launch dp).cmdReady = true ∧ (State.launch dp).kvPort = false) ∧
  (∃ dp : Datapath, State.reset = State.launch dp) ∧
  (∀ s t : State, s.rstPort = true → step s = .next t →
    t.cmdReady = true ∧ t.kvPort = false ∧ rspPort s t = none)

/-- `spec/70_reset_and_hazards.md` section 1: after a reset no response is ever appended for the abandoned command (with
nothing more offered the trace stays empty), and a DECBLK needs a new LDKEY. -/
def Obligations.ResetAbandonsTheOperation : Prop :=
  ∀ s t : State, s.rstPort = true → step s = .next t →
    (∀ block : Block, ∃ u, exec (.decblk block) t = .next u ∧ u.out = [0x020000000000000000#72]) ∧
    (s.host.tail = [] → ∀ k, ∃ u, runSteps k t = .next u ∧ u.out = [])

/-- `spec/70_reset_and_hazards.md` section 3, the end of a run: an idle machine to which nothing is offered takes no step
and changes nothing. -/
def Obligations.IdleMachineStaysPut : Prop :=
  ∀ s : State, s.phase = .idle → s.host = [] → ∀ k, runSteps k s = .next s

/-! ### Whole-machine rules -/

/-- Rule R25: the transitions of the phase, and no others, whatever state a step starts from: reset goes to `IDLE`; an
accepted LDKEY to `KS`, an accepted DECBLK with `kv = 1` to `RND`, an error response stays `IDLE`; KS and RND stay while
`rc < 15` and leave to `IDLE` and `FIN` at `rc = 15`; FIN goes to `IDLE`. -/
def Obligations.PhaseMovesAreTheSequencers : Prop :=
  ∀ s t : State, step s = .next t → phaseMove s t.phase

/-- `spec/10_state.md` section 1, the column "written by": which steps may change each register, reset aside. -/
def Obligations.OnlyTheNamedStepsWriteARegister : Prop :=
  ∀ s t : State, step s = .next t → s.rstPort = false →
    (t.C ≠ s.C ∨ t.D ≠ s.D →
      s.phase = .ks ∨ (s.phase = .idle ∧ ∃ w key, s.cmdPort = some w ∧ decode w = .ok (.ldkey key))) ∧
    (t.RK ≠ s.RK → s.phase = .ks) ∧
    (t.L ≠ s.L ∨ t.R ≠ s.R →
      s.phase = .rnd ∨
        (s.phase = .idle ∧ s.kv = true ∧ ∃ w block, s.cmdPort = some w ∧ decode w = .ok (.decblk block))) ∧
    (t.rc ≠ s.rc → s.phase = .ks ∨ s.phase = .rnd ∨ (s.phase = .idle ∧ t.phase ≠ .idle)) ∧
    t.draws = s.draws

/-- `spec/10_state.md` section 5, the response trace: a step appends at most one response, the one its `rsp` port delivers;
it does so exactly when it is the sixteenth KS step, the FIN step, or an accept step that ends in an error. -/
def Obligations.ResponsesComeOneAtATime : Prop :=
  ∀ s t : State, step s = .next t → s.rstPort = false →
    t.out = s.out ++ (rspPort s t).toList ∧
    ((rspPort s t).isSome = true ↔
      (s.phase = .ks ∧ s.rc = 15#5) ∨ s.phase = .fin ∨
        (s.phase = .idle ∧ ∃ w, s.cmdPort = some w ∧
          ((∃ e, decode w = .error e) ∨ (s.kv = false ∧ ∃ block, decode w = .ok (.decblk block)))))

/-- The reset state meets the invariant of rule R37 (`spec/10_state.md` section 3), for every content of the datapath
registers. -/
def Obligations.ResetMeetsTheInvariant : Prop :=
  (∀ dp : Datapath, (State.launch dp).Inv) ∧ State.reset.Inv

/-- `spec/10_state.md` section 3 ("[derived: from rule R24, rule R25 …]"): the invariant of reachable states: every step
from a state that meets it gives one that does. -/
def Obligations.EveryStepKeepsTheInvariant : Prop :=
  ∀ s t : State, s.Inv → step s = .next t → t.Inv

/-- `spec/70_reset_and_hazards.md` section 3, progress ("the sequencer is never stuck"): from a state that meets the
invariant no run of any length, whatever the host drives, ends in a fault or a refusal. -/
def Obligations.NoRunStopsFromTheInvariant : Prop :=
  ∀ s : State, s.Inv → s.Safe

/-- `spec/70_reset_and_hazards.md` sections 3 and 4 ("[derived: from `41_key_schedule.md` rule R122 …]"): an accepted
command appends its response after a number of steps that its opcode and `kv` alone fix, 17 for LDKEY, 18 for DECBLK with
`kv = 1`, 1 for an error response (the accept step counted), and nothing before; the data play no part. -/
def Obligations.CommandsAnswerAfterFixedSteps : Prop :=
  ∀ (s : State) (w : CmdWord) (n : Nat), s.phase = .idle → s.cmdPort = some w →
    n = (if cmdOp w = 0x01#8 then 17 else if cmdOp w = 0x02#8 ∧ s.kv = true then 18 else 1) →
    busyResetFree (n - 1) s.host.tail = true →
    (∀ k, k < n → ∃ t, runSteps k s = .next t ∧ t.out = s.out ∧ (0 < k → t.cmdReady = false)) ∧
    ∃ t r, runSteps n s = .next t ∧ t.out = s.out ++ [r] ∧ t.cmdReady = true

/-! ### Operations as runs -/

/-- `spec/41_key_schedule.md` section 3 ("[derived: from rule R110, rule R121 and rule R122]"): while an LDKEY runs, after
its accept step and `n` KS steps, `C`, `D` are Cₙ, Dₙ, `RK[1..n]` are K₁..Kₙ, and the other entries are still the old
ones. -/
def Obligations.KsStepsHoldTheSchedule : Prop :=
  ∀ (s : State) (w : CmdWord) (key : Key) (n : Nat), s.phase = .idle → s.cmdPort = some w →
    decode w = .ok (.ldkey key) → n ≤ 16 → busyResetFree n s.host.tail = true →
    ∃ t, runSteps (n + 1) s = .next t ∧
      t.C = (keyHalvesAfter key n).C ∧ t.D = (keyHalvesAfter key n).D ∧ t.rc.toNat = n ∧
      (∀ r : Round, r.val < n → t.RK.get r = (derive key).get r) ∧
      (∀ r : Round, n ≤ r.val → t.RK.get r = s.RK.get r) ∧
      (n < 16 → t.phase = .ks ∧ t.kv = false ∧ t.out = s.out)

/-- `spec/43_block_cipher.md` section 2 ("[derived: from rule R160, rule R169 …]"): while a DECBLK runs, after its accept
step and `n` RND steps, `L`, `R` are Lₙ, Rₙ of the block, and `RK` and `kv` are as they were. -/
def Obligations.RndStepsHoldTheHalves : Prop :=
  ∀ (s : State) (w : CmdWord) (block : Block) (n : Nat), s.phase = .idle → s.kv = true → s.cmdPort = some w →
    decode w = .ok (.decblk block) → n ≤ 16 → busyResetFree n s.host.tail = true →
    ∃ t, runSteps (n + 1) s = .next t ∧
      t.L = (halvesAfter s.RK block n).L ∧ t.R = (halvesAfter s.RK block n).R ∧ t.rc.toNat = n ∧
      t.RK = s.RK ∧ t.kv = true ∧ t.C = s.C ∧ t.D = s.D ∧ t.out = s.out ∧
      t.phase = if n < 16 then .rnd else .fin

/-- Rule R120: the whole effect of an accepted LDKEY, reached by its 17 steps whatever the host offers meanwhile, with no
reset in between: every register as the rule writes it, `L` and `R` not touched, the response `(OK, 0)`. -/
def Obligations.LdkeyRunHasItsWholeEffect : Prop :=
  ∀ (s : State) (w : CmdWord) (key : Key), s.phase = .idle → s.cmdPort = some w → decode w = .ok (.ldkey key) →
    busyResetFree 16 s.host.tail = true →
    runSteps 17 s = .next { s with
      RK := derive key
      C := (keyHalvesAfter key 16).C
      D := (keyHalvesAfter key 16).D
      rc := 16#5
      phase := .idle
      kv := true
      out := s.out ++ [0x000000000000000000#72]
      host := hostAfterTicks 16 s.host.tail }

/-- Rule R168: the whole effect of an accepted DECBLK: with `kv = 1`, reached by its 18 steps with no reset in between,
L₁₆, R₁₆, `rc = 16` and the response `(OK, decryptBlock(arg, RK))`, `kv`, `RK`, `C`, `D` unchanged; with `kv = 0`, in one
step, the response `(NO_KEY, 0)` and nothing else. -/
def Obligations.DecblkRunHasItsWholeEffect : Prop :=
  ∀ (s : State) (w : CmdWord) (block : Block), s.phase = .idle → s.cmdPort = some w →
    decode w = .ok (.decblk block) →
    (s.kv = true → busyResetFree 17 s.host.tail = true →
      runSteps 18 s = .next { s with
        L := (halvesAfter s.RK block 16).L
        R := (halvesAfter s.RK block 16).R
        rc := 16#5
        phase := .idle
        out := s.out ++ [0x00#8 ++ decryptBlock block s.RK]
        host := hostAfterTicks 17 s.host.tail }) ∧
    (s.kv = false →
      runSteps 1 s = .next { s with out := s.out ++ [0x020000000000000000#72], host := s.host.tail })

/-- `spec/20_memory.md` section 4 and `spec/70_reset_and_hazards.md` section 3 ("[derived: …]"): a run of a whole command
script, reserved words and refused blocks among it, is its commands' whole effects one after the other, and it answers each
command once. -/
def Obligations.ScriptRunIsItsTransactions : Prop :=
  ∀ (script : List CmdWord) (s : State), s.phase = .idle → s.host = script.map .command →
    ∃ t, runSteps (scriptSteps script s) s = .next t ∧
      t = (script.foldl (fun u w => transact w u) s).withHost [] ∧
      t.phase = .idle ∧ t.out.length = s.out.length + script.length

/-- `spec/20_memory.md` section 4 (blocks are independent) and `spec/43_block_cipher.md` section 2 (no cross-block state)
("[derived: …]"): with a key loaded, each of any sequence of blocks is answered with its own decryption under `RK`, whatever
came before it, and `RK`, `kv`, `C`, `D` are as they were. -/
def Obligations.BlocksAreDecryptedIndependently : Prop :=
  ∀ (blocks : List Block) (s : State), s.phase = .idle → s.kv = true →
    s.host = blocks.map (fun c => .command (encode (.decblk c))) →
    ∃ t, runSteps (18 * blocks.length) s = .next t ∧
      t.out = s.out ++ blocks.map (fun c => 0x00#8 ++ decryptBlock c s.RK) ∧
      t.RK = s.RK ∧ t.kv = true ∧ t.C = s.C ∧ t.D = s.D ∧ t.phase = .idle

/-- `spec/00_scope.md` section 7 and `spec/10_state.md` section 8 ("[derived: from rule R121 …]"): "the unspecified reset
values … never reach a response". Two machines that start after reset with any two contents of the datapath registers, and
draw anything at later resets (assumption 2), show the host the same after any number of steps of the same host. -/
def Obligations.ResetDatapathNeverReachesTheHost : Prop :=
  ∀ (d₁ d₂ : Datapath) (host : List HostItem) (k : Nat), ∃ t₁ t₂,
    runSteps k ((State.launch d₁).withHost host) = .next t₁ ∧
    runSteps k ((State.launch d₂).withHost host) = .next t₂ ∧
    t₁.observe = t₂.observe

/-! ### The host driver -/

/-- Rules R192, R193: a last block is accepted exactly when `n = b[7]` is in 1..8 and its last `n` bytes all equal `n`, and
the result is the block "with those `n` bytes removed"; every other block gives `PaddingError`. -/
def Obligations.PaddingIsStrippedOrRefused : Prop :=
  ∀ b : Vector Byte 8,
    (∀ out : List Byte, stripPadding b = .ok out ↔
      1 ≤ b[7].toNat ∧ b[7].toNat ≤ 8 ∧ (∀ k : Fin 8, 8 - b[7].toNat ≤ k.val → (b.get k).toNat = b[7].toNat) ∧
        out = b.toList.take (8 - b[7].toNat)) ∧
    (stripPadding b = .error .paddingError ↔
      b[7].toNat < 1 ∨ 8 < b[7].toNat ∨ ∃ k : Fin 8, 8 - b[7].toNat ≤ k.val ∧ (b.get k).toNat ≠ b[7].toNat)

/-- Rule R202: a run fails with `InputFormatError` exactly when the input length is not a positive multiple of 8, and such a
run leaves the hardware untouched. -/
def Obligations.LengthCheckComesBeforeAnyCommand : Prop :=
  (∀ (key : Vector Byte 8) (input : List Byte),
    decryptStream key input = .error .inputFormatError ↔ input.length = 0 ∨ input.length % 8 ≠ 0) ∧
  (∀ (key : Vector Byte 8) (input : List Byte) (s : State), input.length = 0 ∨ input.length % 8 ≠ 0 →
    driveStream key input s = (.error .inputFormatError, s))

/-- `spec/44_padding_policy.md` (output length) and `spec/45_stream_processor.md` (output length and content): a run that
succeeds delivers the input's length less the pad count of the last decrypted block, which is in 1..8. -/
def Obligations.StreamOutputIsShorterByThePadCount : Prop :=
  ∀ (key : Vector Byte 8) (input out : List Byte), decryptStream key input = .ok out →
    ∃ last, (cutBlocks input).getLast? = some last ∧
      1 ≤ padCount (bytesOfBlock (decryptBlock last (derive (blockOfBytes key)))) ∧
      padCount (bytesOfBlock (decryptBlock last (derive (blockOfBytes key)))) ≤ 8 ∧
      out.length + padCount (bytesOfBlock (decryptBlock last (derive (blockOfBytes key)))) = input.length

/-- `spec/45_stream_processor.md` (output length and content, "[derived: from `43_block_cipher.md` rule R176 …]"): the
source's round-trip property: a plaintext of any length, padded and encrypted block by block under a key, is recovered
whole by `decryptStream` under that key. -/
def Obligations.StreamRoundTripRecoversThePlaintext : Prop :=
  ∀ (key : Vector Byte 8) (plain : List Byte), decryptStream key (encryptStream key plain) = .ok plain

/-- `spec/45_stream_processor.md` (the run as commands) and `spec/70_reset_and_hazards.md` section 4: from every idle state,
a key and `m` blocks take `17 + 18m` steps, and the trace gains the LDKEY response and then each block's decryption in
stream order. -/
def Obligations.StreamCommandsTakeTheStatedSteps : Prop :=
  ∀ (key : Key) (blocks : List Block) (s : State), s.phase = .idle →
    ∃ t, runSteps (17 + 18 * blocks.length) (s.withHost ((streamCommands key blocks).map .command)) = .next t ∧
      t.out = s.out ++ 0x000000000000000000#72 :: blocks.map (fun c => 0x00#8 ++ decryptBlock c (derive key)) ∧
      t.RK = derive key ∧ t.kv = true ∧ t.phase = .idle

/-- `spec/45_stream_processor.md` (the run as commands, and the function it performs): from every state that meets the
invariant, the driver's run over the hardware has the result of `decryptStream`; from an idle state the trace gains one
`OK` response per command, in order. -/
def Obligations.DriverRunsTheStreamOnTheHardware : Prop :=
  ∀ (key : Vector Byte 8) (input : List Byte) (s : State), s.Inv →
    (driveStream key input s).1 = decryptStream key input ∧
    (s.phase = .idle → inputLengthOk input = true →
      (driveStream key input s).2.out = s.out ++ 0x000000000000000000#72 ::
        (cutBlocks input).map (fun c => 0x00#8 ++ decryptBlock c (derive (blockOfBytes key))))

/-- `spec/30_encoding.md` section 5 (pseudo-instructions): `DECSTREAM` expands to the driver's commands, held until they are
accepted, and to none when the byte count is zero or not a multiple of 8. -/
def Obligations.DecstreamExpandsToTheDriversCommands : Prop :=
  ∀ d : DecStream,
    (d.input.length ≠ 0 ∧ d.input.length % 8 = 0 →
      (expandStream d).map hostItemOf =
        (streamCommands (blockOfBytes d.key) (cutBlocks d.input)).map .command) ∧
    (d.input.length = 0 ∨ d.input.length % 8 ≠ 0 → expandStream d = [])

/-- `spec/20_memory.md` section 1 (the host's byte strings): `MemRead(addr, n)` gives input bytes `addr .. addr+n-1`, for
every byte that stands in the input; `MemWrite(addr, n, v)` sets output bytes `addr .. addr+n-1`, wherever the output ends,
and leaves every other byte of the output. -/
def Obligations.HostReadsAndWritesMoveTheNamedBytes : Prop :=
  (∀ (input : List Byte) (addr n k : Nat) (hk : k < n) (h : addr + k < input.length),
    (memRead input addr n)[k] = input[addr + k]) ∧
  (∀ (output bytes : List Byte) (addr k : Nat), k < bytes.length →
    (memWrite output addr bytes)[addr + k]? = bytes[k]?) ∧
  (∀ (output bytes : List Byte) (addr k : Nat), k < output.length → k < addr ∨ addr + bytes.length ≤ k →
    (memWrite output addr bytes)[k]? = output[k]?)
end

