-- ==== Sys2Proof/Laws/Bits.lean ====
section
/-! SUPPORT. Positions (`spec/00_scope.md` rule R6) and the spec lemma of `permute` (`spec/40_bit_permutation.md` rule
R90): what each output position holds. -/

namespace Sys2Proof.Machine

/-- Position `p` counted from the most significant end is the library's most significant bit `p - 1`. -/
theorem pos_eq_getMsbD {w : Nat} (v : BitVec w) {p : Nat} (h : 1 ≤ p) (hw : p ≤ w) : pos v p = v.getMsbD (p - 1) := by
  rw [pos, BitVec.getMsbD_eq_getLsbD, show w - 1 - (p - 1) = w - p by omega]
  simp; omega

/-- A table entry is a position of the input (rule R91). -/
theorem entry_range {w n : Nat} (T : PermTable w n) {p : Nat} (h : p ∈ T.entries) : 1 ≤ p ∧ p ≤ w := by
  have := List.all_eq_true.mp T.in_range p h
  simpa using this

/-- The spec lemma of `permute`: bit `i` from the top of the result is the input's bit at the table's entry `i`. -/
theorem getMsbD_permute {w n : Nat} (v : BitVec w) (T : PermTable w n) {i : Nat} (hi : i < n) :
    (permute v T).getMsbD i = v.getMsbD (T.entries[i]'(by rw [T.length_eq]; exact hi) - 1) := by
  have hl : i < T.entries.length := by rw [T.length_eq]; exact hi
  have hr := entry_range T (List.getElem_mem hl)
  rw [permute, BitVec.getMsbD_cast, BitVec.getMsbD_ofBoolListBE, ← pos_eq_getMsbD v hr.1 hr.2]
  simp [hl]

/-- The more significant part of a concatenation, read back as a slice (rule R8). -/
theorem extractLsb'_append_left {m n : Nat} (a : BitVec m) (b : BitVec n) : (a ++ b).extractLsb' n m = a := by
  ext i hi
  simp [BitVec.getElem_extractLsb', BitVec.getLsbD_append, BitVec.getLsbD_eq_getElem hi]

/-- The less significant part of a concatenation, read back as a slice (rule R8). -/
theorem extractLsb'_append_right {m n : Nat} (a : BitVec m) (b : BitVec n) : (a ++ b).extractLsb' 0 n = b := by
  ext i hi
  simp [BitVec.getElem_extractLsb', BitVec.getLsbD_append, hi]

/-- A slice of a whole value is the value. -/
theorem extractLsb'_self {n s : Nat} (a : BitVec n) (h : s = 0) : a.extractLsb' s n = a := by
  subst h; exact BitVec.extractLsb'_eq_self

/-- Part `j` of eight equal parts put together, the first the most significant, read back as a slice. -/
theorem extractLsb'_append8 {n : Nat} (o : Fin 8 → BitVec n) (j : Fin 8) :
    (o 0 ++ o 1 ++ o 2 ++ o 3 ++ o 4 ++ o 5 ++ o 6 ++ o 7).extractLsb' (n * (7 - j.val)) n = o j := by
  fin_cases j <;> simp only [] <;>
  · repeat first
      | rw [BitVec.extractLsb'_append_eq_of_add_le (by omega)]
      | rw [BitVec.extractLsb'_append_eq_of_le (by omega)]
    exact extractLsb'_self _ (by simp; try omega)
/-- Two values are equal when they agree at every position. -/
theorem eq_of_getMsbD_lt {w : Nat} {x y : BitVec w} (h : ∀ i < w, x.getMsbD i = y.getMsbD i) : x = y :=
  BitVec.eq_of_getMsbD_eq h

end Sys2Proof.Machine
end

