-- ==== Sys2Proof/Laws/Cipher.lean ====
section
/-! SUPPORT. The spec lemmas of the rotation, of one Feistel round, and of the driver's writes. -/

namespace Sys2Proof.Machine

/-- `rotl28` is the library's left rotation, for every amount below 28 (rule R8). -/
theorem rotl28_eq_rotateLeft (x : HalfKey) (n : Nat) (h : n < 28) : rotl28 x n = x.rotateLeft n := by
  rw [BitVec.rotateLeft_def, Nat.mod_eq_of_lt h]
  rfl

/-- No rotation at all. -/
theorem rotateLeft_zero28 (x : HalfKey) : x.rotateLeft 0 = x := by
  apply BitVec.eq_of_getMsbD_eq
  intro i hi
  rw [BitVec.getMsbD_rotateLeft, decide_eq_true hi, Bool.true_and, Nat.zero_add, Nat.mod_eq_of_lt hi]

/-- Two rotations of a 28-bit value, one after the other, are one. -/
theorem rotateLeft_rotateLeft28 (x : HalfKey) (a b : Nat) : (x.rotateLeft a).rotateLeft b = x.rotateLeft (a + b) := by
  have h28 : ∀ (y : HalfKey) (r i : Nat), i < 28 → (y.rotateLeft r).getMsbD i = y.getMsbD ((i + r) % 28) := by
    intro y r i hi
    rw [BitVec.getMsbD_rotateLeft, decide_eq_true hi, Bool.true_and, Nat.add_comm]
  apply BitVec.eq_of_getMsbD_eq
  intro i hi
  rw [h28 _ _ _ hi, h28 _ _ _ (Nat.mod_lt _ (by decide)), h28 _ _ _ hi]
  congr 1
  omega

/-- The rotation amounts are 1 or 2. -/
theorem shift_lt (r : Round) : shift r < 28 := by
  revert r; decide

/-- A complement goes through `permute`. -/
theorem permute_not {w n : Nat} (v : BitVec w) (T : PermTable w n) : permute (~~~v) T = ~~~permute v T := by
  apply eq_of_getMsbD_lt
  intro i hi
  have hl : i < T.entries.length := by rw [T.length_eq]; exact hi
  have hr := entry_range T (List.getElem_mem hl)
  have : T.entries[i] - 1 < w := by omega
  rw [BitVec.getMsbD_not, getMsbD_permute _ _ hi, getMsbD_permute _ _ hi, BitVec.getMsbD_not]
  simp [hi, this]

/-- The two halves exchanged. -/
def Halves.swap (lr : Halves) : Halves := ⟨lr.R, lr.L⟩

/-- One round undoes itself between two exchanges of the halves (rule R162). -/
theorem feistelStep_swap (k : Subkey) (lr : Halves) : feistelStep k (feistelStep k lr).swap = lr.swap := by
  simp [feistelStep, Halves.swap]

/-- A write at the end of the output appends (rule R53). -/
theorem memWrite_end (output bytes : List Byte) : memWrite output output.length bytes = output ++ bytes := by
  cases bytes <;> simp [memWrite, memGap]

end Sys2Proof.Machine
end

