-- ==== Sys2Proof/Laws/State.lean ====
section
/-! SUPPORT. One lemma per field per update of the state, true by `rfl`, so that no later proof unfolds a record update.
A line names the update and the field. -/

namespace Sys2Proof.Machine

variable (s : State)

/-! ### `hostTick` -/

@[simp] theorem State.hostTick_phase : s.hostTick.phase = s.phase := rfl
@[simp] theorem State.hostTick_rc : s.hostTick.rc = s.rc := rfl
@[simp] theorem State.hostTick_kv : s.hostTick.kv = s.kv := rfl
@[simp] theorem State.hostTick_C : s.hostTick.C = s.C := rfl
@[simp] theorem State.hostTick_D : s.hostTick.D = s.D := rfl
@[simp] theorem State.hostTick_RK : s.hostTick.RK = s.RK := rfl
@[simp] theorem State.hostTick_L : s.hostTick.L = s.L := rfl
@[simp] theorem State.hostTick_R : s.hostTick.R = s.R := rfl
@[simp] theorem State.hostTick_out : s.hostTick.out = s.out := rfl
@[simp] theorem State.hostTick_draws : s.hostTick.draws = s.draws := rfl
@[simp] theorem State.hostTick_host : s.hostTick.host = hostAfterTick s.host := rfl

/-! ### `hostTake` -/

@[simp] theorem State.hostTake_phase : s.hostTake.phase = s.phase := rfl
@[simp] theorem State.hostTake_rc : s.hostTake.rc = s.rc := rfl
@[simp] theorem State.hostTake_kv : s.hostTake.kv = s.kv := rfl
@[simp] theorem State.hostTake_C : s.hostTake.C = s.C := rfl
@[simp] theorem State.hostTake_D : s.hostTake.D = s.D := rfl
@[simp] theorem State.hostTake_RK : s.hostTake.RK = s.RK := rfl
@[simp] theorem State.hostTake_L : s.hostTake.L = s.L := rfl
@[simp] theorem State.hostTake_R : s.hostTake.R = s.R := rfl
@[simp] theorem State.hostTake_out : s.hostTake.out = s.out := rfl
@[simp] theorem State.hostTake_draws : s.hostTake.draws = s.draws := rfl
@[simp] theorem State.hostTake_host : s.hostTake.host = s.host.tail := rfl

/-! ### `placeCommand` -/

@[simp] theorem State.placeCommand_phase (w : CmdWord) : (s.placeCommand w).phase = .idle := rfl
@[simp] theorem State.placeCommand_rc (w : CmdWord) : (s.placeCommand w).rc = s.rc := rfl
@[simp] theorem State.placeCommand_kv (w : CmdWord) : (s.placeCommand w).kv = s.kv := rfl
@[simp] theorem State.placeCommand_C (w : CmdWord) : (s.placeCommand w).C = s.C := rfl
@[simp] theorem State.placeCommand_D (w : CmdWord) : (s.placeCommand w).D = s.D := rfl
@[simp] theorem State.placeCommand_RK (w : CmdWord) : (s.placeCommand w).RK = s.RK := rfl
@[simp] theorem State.placeCommand_L (w : CmdWord) : (s.placeCommand w).L = s.L := rfl
@[simp] theorem State.placeCommand_R (w : CmdWord) : (s.placeCommand w).R = s.R := rfl
@[simp] theorem State.placeCommand_out (w : CmdWord) : (s.placeCommand w).out = s.out := rfl
@[simp] theorem State.placeCommand_draws (w : CmdWord) : (s.placeCommand w).draws = s.draws := rfl
@[simp] theorem State.placeCommand_host (w : CmdWord) : (s.placeCommand w).host = .command w :: s.host := rfl

/-! ### `withHost` -/

@[simp] theorem State.withHost_phase (h : List HostItem) : (s.withHost h).phase = s.phase := rfl
@[simp] theorem State.withHost_rc (h : List HostItem) : (s.withHost h).rc = s.rc := rfl
@[simp] theorem State.withHost_kv (h : List HostItem) : (s.withHost h).kv = s.kv := rfl
@[simp] theorem State.withHost_C (h : List HostItem) : (s.withHost h).C = s.C := rfl
@[simp] theorem State.withHost_D (h : List HostItem) : (s.withHost h).D = s.D := rfl
@[simp] theorem State.withHost_RK (h : List HostItem) : (s.withHost h).RK = s.RK := rfl
@[simp] theorem State.withHost_L (h : List HostItem) : (s.withHost h).L = s.L := rfl
@[simp] theorem State.withHost_R (h : List HostItem) : (s.withHost h).R = s.R := rfl
@[simp] theorem State.withHost_out (h : List HostItem) : (s.withHost h).out = s.out := rfl
@[simp] theorem State.withHost_draws (h : List HostItem) : (s.withHost h).draws = s.draws := rfl
@[simp] theorem State.withHost_host (h : List HostItem) : (s.withHost h).host = h := rfl

/-! ### `countRound` -/

@[simp] theorem State.countRound_phase (r : Round) : (s.countRound r).phase = s.phase := rfl
@[simp] theorem State.countRound_rc (r : Round) : (s.countRound r).rc = BitVec.ofNat 5 (r.val + 1) := rfl
@[simp] theorem State.countRound_kv (r : Round) : (s.countRound r).kv = s.kv := rfl
@[simp] theorem State.countRound_C (r : Round) : (s.countRound r).C = s.C := rfl
@[simp] theorem State.countRound_D (r : Round) : (s.countRound r).D = s.D := rfl
@[simp] theorem State.countRound_RK (r : Round) : (s.countRound r).RK = s.RK := rfl
@[simp] theorem State.countRound_L (r : Round) : (s.countRound r).L = s.L := rfl
@[simp] theorem State.countRound_R (r : Round) : (s.countRound r).R = s.R := rfl
@[simp] theorem State.countRound_out (r : Round) : (s.countRound r).out = s.out := rfl
@[simp] theorem State.countRound_draws (r : Round) : (s.countRound r).draws = s.draws := rfl
@[simp] theorem State.countRound_host (r : Round) : (s.countRound r).host = s.host := rfl

/-! ### `writeRK` -/

@[simp] theorem State.writeRK_phase (r : Round) (k : Subkey) : (s.writeRK r k).phase = s.phase := rfl
@[simp] theorem State.writeRK_rc (r : Round) (k : Subkey) : (s.writeRK r k).rc = s.rc := rfl
@[simp] theorem State.writeRK_kv (r : Round) (k : Subkey) : (s.writeRK r k).kv = s.kv := rfl
@[simp] theorem State.writeRK_C (r : Round) (k : Subkey) : (s.writeRK r k).C = s.C := rfl
@[simp] theorem State.writeRK_D (r : Round) (k : Subkey) : (s.writeRK r k).D = s.D := rfl
@[simp] theorem State.writeRK_RK (r : Round) (k : Subkey) : (s.writeRK r k).RK = s.RK.set r.val k := rfl
@[simp] theorem State.writeRK_L (r : Round) (k : Subkey) : (s.writeRK r k).L = s.L := rfl
@[simp] theorem State.writeRK_R (r : Round) (k : Subkey) : (s.writeRK r k).R = s.R := rfl
@[simp] theorem State.writeRK_out (r : Round) (k : Subkey) : (s.writeRK r k).out = s.out := rfl
@[simp] theorem State.writeRK_draws (r : Round) (k : Subkey) : (s.writeRK r k).draws = s.draws := rfl
@[simp] theorem State.writeRK_host (r : Round) (k : Subkey) : (s.writeRK r k).host = s.host := rfl

/-! ### `respond` -/

@[simp] theorem State.respond_phase (st : Status) (v : Block) : (s.respond st v).phase = s.phase := rfl
@[simp] theorem State.respond_rc (st : Status) (v : Block) : (s.respond st v).rc = s.rc := rfl
@[simp] theorem State.respond_kv (st : Status) (v : Block) : (s.respond st v).kv = s.kv := rfl
@[simp] theorem State.respond_C (st : Status) (v : Block) : (s.respond st v).C = s.C := rfl
@[simp] theorem State.respond_D (st : Status) (v : Block) : (s.respond st v).D = s.D := rfl
@[simp] theorem State.respond_RK (st : Status) (v : Block) : (s.respond st v).RK = s.RK := rfl
@[simp] theorem State.respond_L (st : Status) (v : Block) : (s.respond st v).L = s.L := rfl
@[simp] theorem State.respond_R (st : Status) (v : Block) : (s.respond st v).R = s.R := rfl
@[simp] theorem State.respond_out (st : Status) (v : Block) : (s.respond st v).out = s.out ++ [rspWord st v] := rfl
@[simp] theorem State.respond_draws (st : Status) (v : Block) : (s.respond st v).draws = s.draws := rfl
@[simp] theorem State.respond_host (st : Status) (v : Block) : (s.respond st v).host = s.host := rfl

/-! ### `errorResponse` -/

@[simp] theorem State.errorResponse_phase (st : Status) : (s.errorResponse st).phase = s.phase := rfl
@[simp] theorem State.errorResponse_rc (st : Status) : (s.errorResponse st).rc = s.rc := rfl
@[simp] theorem State.errorResponse_kv (st : Status) : (s.errorResponse st).kv = s.kv := rfl
@[simp] theorem State.errorResponse_C (st : Status) : (s.errorResponse st).C = s.C := rfl
@[simp] theorem State.errorResponse_D (st : Status) : (s.errorResponse st).D = s.D := rfl
@[simp] theorem State.errorResponse_RK (st : Status) : (s.errorResponse st).RK = s.RK := rfl
@[simp] theorem State.errorResponse_L (st : Status) : (s.errorResponse st).L = s.L := rfl
@[simp] theorem State.errorResponse_R (st : Status) : (s.errorResponse st).R = s.R := rfl
@[simp] theorem State.errorResponse_out (st : Status) : (s.errorResponse st).out = s.out ++ [rspWord st 0#64] := rfl
@[simp] theorem State.errorResponse_draws (st : Status) : (s.errorResponse st).draws = s.draws := rfl
@[simp] theorem State.errorResponse_host (st : Status) : (s.errorResponse st).host = s.host := rfl

/-! ### `illegalOp` -/

@[simp] theorem State.illegalOp_phase : s.illegalOp.phase = s.phase := rfl
@[simp] theorem State.illegalOp_rc : s.illegalOp.rc = s.rc := rfl
@[simp] theorem State.illegalOp_kv : s.illegalOp.kv = s.kv := rfl
@[simp] theorem State.illegalOp_C : s.illegalOp.C = s.C := rfl
@[simp] theorem State.illegalOp_D : s.illegalOp.D = s.D := rfl
@[simp] theorem State.illegalOp_RK : s.illegalOp.RK = s.RK := rfl
@[simp] theorem State.illegalOp_L : s.illegalOp.L = s.L := rfl
@[simp] theorem State.illegalOp_R : s.illegalOp.R = s.R := rfl
@[simp] theorem State.illegalOp_out : s.illegalOp.out = s.out ++ [rspWord .illegalOp 0#64] := rfl
@[simp] theorem State.illegalOp_draws : s.illegalOp.draws = s.draws := rfl
@[simp] theorem State.illegalOp_host : s.illegalOp.host = s.host := rfl

/-! ### `withDatapath` -/

@[simp] theorem State.withDatapath_phase (dp : Datapath) : (s.withDatapath dp).phase = s.phase := rfl
@[simp] theorem State.withDatapath_rc (dp : Datapath) : (s.withDatapath dp).rc = s.rc := rfl
@[simp] theorem State.withDatapath_kv (dp : Datapath) : (s.withDatapath dp).kv = s.kv := rfl
@[simp] theorem State.withDatapath_C (dp : Datapath) : (s.withDatapath dp).C = dp.C := rfl
@[simp] theorem State.withDatapath_D (dp : Datapath) : (s.withDatapath dp).D = dp.D := rfl
@[simp] theorem State.withDatapath_RK (dp : Datapath) : (s.withDatapath dp).RK = dp.RK := rfl
@[simp] theorem State.withDatapath_L (dp : Datapath) : (s.withDatapath dp).L = dp.L := rfl
@[simp] theorem State.withDatapath_R (dp : Datapath) : (s.withDatapath dp).R = dp.R := rfl
@[simp] theorem State.withDatapath_out (dp : Datapath) : (s.withDatapath dp).out = s.out := rfl
@[simp] theorem State.withDatapath_draws (dp : Datapath) : (s.withDatapath dp).draws = s.draws := rfl
@[simp] theorem State.withDatapath_host (dp : Datapath) : (s.withDatapath dp).host = s.host := rfl

/-! ### `resetStep` -/

@[simp] theorem State.resetStep_phase : s.resetStep.phase = .idle := rfl
@[simp] theorem State.resetStep_rc : s.resetStep.rc = 0#5 := rfl
@[simp] theorem State.resetStep_kv : s.resetStep.kv = false := rfl
@[simp] theorem State.resetStep_C : s.resetStep.C = (Config.resetDatapath s.draws s.datapath).C := rfl
@[simp] theorem State.resetStep_D : s.resetStep.D = (Config.resetDatapath s.draws s.datapath).D := rfl
@[simp] theorem State.resetStep_RK : s.resetStep.RK = (Config.resetDatapath s.draws s.datapath).RK := rfl
@[simp] theorem State.resetStep_L : s.resetStep.L = (Config.resetDatapath s.draws s.datapath).L := rfl
@[simp] theorem State.resetStep_R : s.resetStep.R = (Config.resetDatapath s.draws s.datapath).R := rfl
@[simp] theorem State.resetStep_out : s.resetStep.out = [] := rfl
@[simp] theorem State.resetStep_draws : s.resetStep.draws = s.draws + 1 := rfl
@[simp] theorem State.resetStep_host : s.resetStep.host = s.host := rfl

/-! ### `launch` -/

@[simp] theorem State.launch_phase (dp : Datapath) : (State.launch dp).phase = .idle := rfl
@[simp] theorem State.launch_rc (dp : Datapath) : (State.launch dp).rc = 0#5 := rfl
@[simp] theorem State.launch_kv (dp : Datapath) : (State.launch dp).kv = false := rfl
@[simp] theorem State.launch_C (dp : Datapath) : (State.launch dp).C = dp.C := rfl
@[simp] theorem State.launch_D (dp : Datapath) : (State.launch dp).D = dp.D := rfl
@[simp] theorem State.launch_RK (dp : Datapath) : (State.launch dp).RK = dp.RK := rfl
@[simp] theorem State.launch_L (dp : Datapath) : (State.launch dp).L = dp.L := rfl
@[simp] theorem State.launch_R (dp : Datapath) : (State.launch dp).R = dp.R := rfl
@[simp] theorem State.launch_out (dp : Datapath) : (State.launch dp).out = [] := rfl
@[simp] theorem State.launch_draws (dp : Datapath) : (State.launch dp).draws = 0 := rfl
@[simp] theorem State.launch_host (dp : Datapath) : (State.launch dp).host = [] := rfl

end Sys2Proof.Machine
end

