-- ==== Sys2Proof/Laws/Ops.lean ====
section
/-! SUPPORT. What each shared operation and each step can do, said once: cite these and do not unfold the operation. -/

namespace Sys2Proof.Machine

variable {s t : State}

/-! ### Ports -/

/-- No reset is asserted when a command is offered. -/
theorem State.rstPort_of_cmdPort {w : CmdWord} (h : s.cmdPort = some w) : s.rstPort = false := by
  unfold State.cmdPort at h
  unfold State.rstPort
  split at h <;> simp_all

/-- `cmd_ready` says that the sequencer is idle (rule R28). -/
theorem State.cmdReady_iff : s.cmdReady = true ↔ s.phase = .idle := by
  cases h : s.phase <;> simp [State.cmdReady, h]

/-- The host drives a reset exactly when a reset heads its list. -/
theorem State.rstPort_eq_head : s.rstPort = (s.host.head? == some .reset) := by
  unfold State.rstPort
  rcases s.host with _ | ⟨_ | _ | _ | _, _⟩ <;> simp

/-! ### Round counter and round-key file -/

/-- The next round exists exactly when `rc` is at most 15, and its number is `rc` (rule R24). -/
theorem State.nextRound_eq_some {r : Round} : s.nextRound = some r ↔ s.rc.toNat = r.val := by
  unfold State.nextRound
  split
  · simp [Fin.ext_iff]
  · have := r.isLt
    simp; omega

theorem State.nextRound_eq_none : s.nextRound = none ↔ 16 ≤ s.rc.toNat := by
  unfold State.nextRound
  split
  · simp; omega
  · simp; omega

/-- `rc <- r` stores `r`, which fits in 5 bits (rule R24). -/
theorem countRound_toNat (r : Round) : (BitVec.ofNat 5 (r.val + 1)).toNat = r.val + 1 := by
  have := r.isLt
  simp; omega

/-- Writing `RK[r]` and reading entry `q`. -/
theorem RoundKeySet.get_set (keys : RoundKeySet) (r q : Round) (k : Subkey) :
    (keys.set r.val k).get q = if q = r then k else keys.get q := by
  by_cases h : q = r
  · simp [h, Vector.get_eq_getElem]
  · have h' : r.val ≠ q.val := fun e => h (Fin.ext e.symm)
    simp [h, h', Vector.get_eq_getElem]

/-- Two round-key files are equal when all sixteen entries are. -/
theorem RoundKeySet.ext_get {a b : RoundKeySet} (h : ∀ r : Round, a.get r = b.get r) : a = b := by
  apply Vector.ext
  intro i hi
  exact h ⟨i, hi⟩

/-- The last round is round 16, number 15. -/
theorem isLastRound_iff {r : Round} : isLastRound r = true ↔ r.val = 15 := by
  simp [isLastRound]

/-! ### Responses -/

/-- The status field of a response word (rule R71). -/
@[simp] theorem rspSt_rspWord (st : Status) (v : Block) : rspSt (rspWord st v) = st.code :=
  extractLsb'_append_left st.code v

/-- The value field of a response word (rule R71). -/
@[simp] theorem rspVal_rspWord (st : Status) (v : Block) : rspVal (rspWord st v) = v :=
  extractLsb'_append_right st.code v

/-- A completed command's response is well-formed (rules R71, R73). -/
theorem rspWellFormed_ok (v : Block) : rspWellFormed (rspWord .ok v) = true := by
  have h : (rspWord .ok v).extractLsb' 64 8 = 0x00#8 := rspSt_rspWord .ok v
  simp [rspWellFormed, h]

/-- An error response is well-formed (rules R71, R73). -/
theorem rspWellFormed_error {st : Status} (h : st ≠ .ok) : rspWellFormed (rspWord st 0#64) = true := by
  cases st
  · exact absurd rfl h
  · decide
  · decide

/-! ### Acceptance -/

theorem acceptWhenIdle_idle (f : State → State) (h : s.phase = .idle) : acceptWhenIdle f s = .next (f s) := by
  simp [acceptWhenIdle, h]

theorem acceptWhenIdle_busy (f : State → State) (h : s.phase ≠ .idle) : acceptWhenIdle f s = .next s := by
  cases hp : s.phase <;> simp_all [acceptWhenIdle]

/-- Accepting a command word while idle never stops the machine: it starts an operation or answers an error. -/
theorem acceptWord_idle (w : CmdWord) (h : s.phase = .idle) :
    acceptWord w s = .next (match decode w with
      | .ok (.ldkey key) => ldkeyAccept key s
      | .ok (.decblk block) => decblkAccept block s
      | .error _ => s.illegalOp) := by
  unfold acceptWord
  cases hd : decode w with
  | error e => rfl
  | ok i => cases i <;> exact acceptWhenIdle_idle _ h

/-! ### The step, by cases -/

theorem step_reset (h : s.rstPort = true) : step s = .next s.hostTake.resetStep := by
  simp [step, machineStep, h]

theorem step_accept {w : CmdWord} (hp : s.phase = .idle) (hc : s.cmdPort = some w) : step s = acceptWord w s.hostTake := by
  simp [step, machineStep, sequencerStep, State.rstPort_of_cmdPort hc, hp, hc]

theorem step_idle (hr : s.rstPort = false) (hp : s.phase = .idle) (hc : s.cmdPort = none) : step s = .next s.hostTick := by
  simp [step, machineStep, sequencerStep, hr, hp, hc]

theorem step_ks {r : Round} (hr : s.rstPort = false) (hp : s.phase = .ks) (hn : s.rc.toNat = r.val) :
    step s = .next (ksRound r s.hostTick) := by
  have h : s.hostTick.nextRound = some r := State.nextRound_eq_some.mpr hn
  simp [step, machineStep, sequencerStep, hr, hp, ksStep, h]

theorem step_rnd {r : Round} (hr : s.rstPort = false) (hp : s.phase = .rnd) (hn : s.rc.toNat = r.val) :
    step s = .next (rndRound r s.hostTick) := by
  have h : s.hostTick.nextRound = some r := State.nextRound_eq_some.mpr hn
  simp [step, machineStep, sequencerStep, hr, hp, rndStep, h]

theorem step_fin (hr : s.rstPort = false) (hp : s.phase = .fin) : step s = .next (finRound s.hostTick) := by
  simp [step, machineStep, sequencerStep, hr, hp, finStep]

/-- The inversion lemma of `step`: everything a step that answers a next state can have done (rules R10, R25, R250). -/
theorem step_cases (h : step s = .next t) :
    (s.rstPort = true ∧ t = s.hostTake.resetStep) ∨
    (s.rstPort = false ∧ s.phase = .idle ∧ s.cmdPort = none ∧ t = s.hostTick) ∨
    (∃ w key, s.rstPort = false ∧ s.phase = .idle ∧ s.cmdPort = some w ∧ decode w = .ok (.ldkey key) ∧
      t = ldkeyAccept key s.hostTake) ∨
    (∃ w block, s.rstPort = false ∧ s.phase = .idle ∧ s.cmdPort = some w ∧ decode w = .ok (.decblk block) ∧
      t = decblkAccept block s.hostTake) ∨
    (∃ w e, s.rstPort = false ∧ s.phase = .idle ∧ s.cmdPort = some w ∧ decode w = .error e ∧
      t = s.hostTake.illegalOp) ∨
    (∃ r : Round, s.rstPort = false ∧ s.phase = .ks ∧ s.rc.toNat = r.val ∧ t = ksRound r s.hostTick) ∨
    (∃ r : Round, s.rstPort = false ∧ s.phase = .rnd ∧ s.rc.toNat = r.val ∧ t = rndRound r s.hostTick) ∨
    (s.rstPort = false ∧ s.phase = .fin ∧ t = finRound s.hostTick) := by
  cases hr : s.rstPort with
  | true =>
    rw [step_reset hr] at h
    exact .inl ⟨rfl, (Host.Outcome.next.inj h).symm⟩
  | false =>
    right
    cases hp : s.phase with
    | idle =>
      cases hc : s.cmdPort with
      | none =>
        rw [step_idle hr hp hc] at h
        exact .inl ⟨rfl, rfl, rfl, (Host.Outcome.next.inj h).symm⟩
      | some w =>
        right
        rw [step_accept hp hc, acceptWord_idle w (show s.hostTake.phase = .idle from hp)] at h
        have h := (Host.Outcome.next.inj h).symm
        cases hd : decode w with
        | error e => exact .inr (.inr (.inl ⟨w, e, rfl, rfl, rfl, hd, by simpa [hd] using h⟩))
        | ok i =>
          cases i with
          | ldkey key => exact .inl ⟨w, key, rfl, rfl, rfl, hd, by simpa [hd] using h⟩
          | decblk block => exact .inr (.inl ⟨w, block, rfl, rfl, rfl, hd, by simpa [hd] using h⟩)
    | ks =>
      rcases hn : s.hostTick.nextRound with _ | r
      · simp [step, machineStep, sequencerStep, hr, hp, ksStep, hn] at h
      · have hn := State.nextRound_eq_some.mp hn
        rw [step_ks hr hp hn] at h
        exact .inr (.inr (.inr (.inr (.inl ⟨r, rfl, rfl, hn, (Host.Outcome.next.inj h).symm⟩))))
    | rnd =>
      rcases hn : s.hostTick.nextRound with _ | r
      · simp [step, machineStep, sequencerStep, hr, hp, rndStep, hn] at h
      · have hn := State.nextRound_eq_some.mp hn
        rw [step_rnd hr hp hn] at h
        exact .inr (.inr (.inr (.inr (.inr (.inl ⟨r, rfl, rfl, hn, (Host.Outcome.next.inj h).symm⟩)))))
    | fin =>
      rw [step_fin hr hp] at h
      exact .inr (.inr (.inr (.inr (.inr (.inr ⟨rfl, rfl, (Host.Outcome.next.inj h).symm⟩)))))

/-! ### Runs -/

@[simp] theorem runSteps_zero (s : State) : runSteps 0 s = .next s := rfl

/-- One step more is the step, and the rest of the run if the machine goes on. -/
theorem runSteps_eq (k : Nat) (s : State) : runSteps (k + 1) s = match step s with
    | .next t => runSteps k t
    | .fault r => .fault r
    | .refused r => .refused r := by
  have h : Sys2Proof.core.step s = step s := rfl
  simp only [runSteps, Host.Core.run, h]
  cases step s <;> rfl

/-- A run is a first step and the rest of the run. -/
theorem runSteps_succ {k : Nat} (h : step s = .next t) : runSteps (k + 1) s = runSteps k t := by
  rw [runSteps_eq, h]

/-- Two runs one after the other are one run. -/
theorem runSteps_add {j k : Nat} {u : State} (h : runSteps j s = .next u) : runSteps (j + k) s = runSteps k u := by
  induction j generalizing s with
  | zero => simp only [runSteps_zero, Host.Outcome.next.injEq] at h; simp [h]
  | succ j ih =>
    rw [runSteps_eq] at h
    cases hs : step s with
    | next v =>
      rw [hs] at h
      rw [show j + 1 + k = (j + k) + 1 by omega, runSteps_succ hs]
      exact ih h
    | fault r => rw [hs] at h; cases h
    | refused r => rw [hs] at h; cases h

end Sys2Proof.Machine
end

