-- ==== Sys2Proof/Laws/PerInstr.lean ====
section
/-! SUPPORT. Statements made once per instruction: the families `RoundTrip` (`spec/30_encoding.md` rules R70, R72: the
word of an instruction decodes to it) and `Defined` (its word is a defined command word). -/

namespace Sys2Proof.Laws.RoundTrip

open Sys2Proof

/-- Decoding the encoded instruction gives it back. -/
def Statement (i : Instr) : Prop := decode (encode i) = .ok i

/-- The opcode field of a command word put together from its fields. -/
theorem cmdOp_cmdWord (op : Opcode) (arg : BitVec 64) : cmdOp (cmdWord op arg) = op :=
  Machine.extractLsb'_append_left op arg

/-- The operand field of a command word put together from its fields. -/
theorem cmdArg_cmdWord (op : Opcode) (arg : BitVec 64) : cmdArg (cmdWord op arg) = arg :=
  Machine.extractLsb'_append_right op arg

theorem ldkey (key : Key) : Statement (.ldkey key) := by
  simp [Statement, encode, decode, cmdOp_cmdWord, cmdArg_cmdWord]

theorem decblk (block : Block) : Statement (.decblk block) := by
  simp [Statement, encode, decode, cmdOp_cmdWord, cmdArg_cmdWord, opDecblk, opLdkey]

end Sys2Proof.Laws.RoundTrip

namespace Sys2Proof.Laws.Defined

open Sys2Proof

/-- A well-formed instruction's word is a defined command word (rule R72). -/
def Statement (i : Instr) : Prop := i.wellFormed = true → cmdWellFormed (encode i) = true

theorem ldkey (key : Key) : Statement (.ldkey key) := by
  intro _
  have h : (encode (.ldkey key)).extractLsb' 64 8 = 0x01#8 := Laws.RoundTrip.cmdOp_cmdWord opLdkey key
  simp [cmdWellFormed, h]

theorem decblk (block : Block) : Statement (.decblk block) := by
  intro _
  have h : (encode (.decblk block)).extractLsb' 64 8 = 0x02#8 := Laws.RoundTrip.cmdOp_cmdWord opDecblk block
  simp [cmdWellFormed, h]

end Sys2Proof.Laws.Defined
end

