-- ==== Sys2Proof/Laws/Steps.lean ====
section
/-! SUPPORT. What each move of the sequencer does to every field, said once, and how the host's list moves on while the
sequencer is busy. -/

namespace Sys2Proof.Machine

/-! ### Accept steps -/

/-- A DECBLK accepted with a key loaded (rule R169). -/
theorem decblkAccept_key (block : Block) (s : State) (h : s.kv = true) : decblkAccept block s = { s with
    L := (initialHalves block).L
    R := (initialHalves block).R
    rc := 0#5
    phase := .rnd } := by
  simp [decblkAccept, h]

/-- A DECBLK accepted with no key loaded (rule R222). -/
theorem decblkAccept_noKey (block : Block) (s : State) (h : s.kv = false) :
    decblkAccept block s = s.errorResponse .noKey := by
  simp [decblkAccept, h]

/-- A DECBLK never changes `kv` (rule R169). -/
theorem decblkAccept_kv (block : Block) (s : State) : (decblkAccept block s).kv = s.kv := by
  cases h : s.kv
  · simp [decblkAccept_noKey block s h, h]
  · simp [decblkAccept_key block s h, h]

/-! ### Advance steps -/

/-- One KS step, field by field (rule R122). -/
theorem ksRound_eq (r : Round) (s : State) : ksRound r s = { s with
    C := rotl28 s.C (shift r)
    D := rotl28 s.D (shift r)
    RK := s.RK.set r.val (permute (rotl28 s.C (shift r) ++ rotl28 s.D (shift r)) pc2)
    rc := BitVec.ofNat 5 (r.val + 1)
    kv := if r.val = 15 then true else s.kv
    phase := if r.val = 15 then .idle else s.phase
    out := if r.val = 15 then s.out ++ [0x000000000000000000#72] else s.out } := by
  have hw : rspWord .ok 0#64 = 0x000000000000000000#72 := by decide
  by_cases h : r.val = 15 <;>
    simp [ksRound, isLastRound, h, ksWrite, kvAfterKsRound, State.respond, State.writeRK, State.countRound,
      State.keyHalves, rotateKeyHalves, selectSubkey, hw]

/-- The number of the entry an RND step uses: `17 - r` for round `r` (rule R163). -/
theorem rev_round (r : Round) : r.rev = Fin.ofNat 16 (15 - r.val) := by
  apply Fin.ext
  simp [Fin.rev]
  omega

/-- One RND step, field by field (rule R170). -/
theorem rndRound_eq (r : Round) (s : State) : rndRound r s = { s with
    L := s.R
    R := s.L ^^^ feistel s.R (s.RK.get (Fin.ofNat 16 (15 - r.val)))
    rc := BitVec.ofNat 5 (r.val + 1)
    phase := if r.val = 15 then .fin else s.phase } := by
  by_cases h : r.val = 15 <;>
    simp [rndRound, isLastRound, h, rndWrite, State.countRound, State.halves, feistelStep, decryptSubkey, rev_round]

/-- Round 16 is the round that starts with `rc = 15`. -/
theorem lastRound_iff_rc {s : State} {r : Round} (h : s.rc.toNat = r.val) : r.val = 15 ↔ s.rc = 15#5 := by
  rw [← h, ← BitVec.toNat_inj]
  rfl

/-! ### The host's list -/

/-- One more step of a busy sequencer. -/
theorem hostAfterTicks_succ (k : Nat) (h : List HostItem) : hostAfterTicks (k + 1) h = hostAfterTick (hostAfterTicks k h) := by
  simp [hostAfterTicks, Function.iterate_succ_apply']

/-- No reset at the next step, and none at the `k` steps after it. -/
theorem busyResetFree_succ (k : Nat) (h : List HostItem) : busyResetFree (k + 1) h = true ↔
    (h.head? == some HostItem.reset) = false ∧ busyResetFree k (hostAfterTick h) = true := by
  simp [busyResetFree]

/-- No reset at the next `j + k` steps: none at the first `j`, and none at the `k` after them. -/
theorem busyResetFree_add (j k : Nat) (h : List HostItem) : busyResetFree (j + k) h = true ↔
    busyResetFree j h = true ∧ busyResetFree k (hostAfterTicks j h) = true := by
  induction j generalizing h with
  | zero => simp [busyResetFree, hostAfterTicks]
  | succ j ih =>
    rw [show j + 1 + k = (j + k) + 1 by omega, busyResetFree_succ, busyResetFree_succ, ih]
    simp only [hostAfterTicks, Function.iterate_succ_apply]
    exact and_assoc.symm

end Sys2Proof.Machine
end

