-- ==== Sys2Proof/Tests/Slice0.lean ====
section
/-! SUPPORT. The model's own tests. Every expected value is one that `spec/` writes out (the section is named); a theorem
`wit_<Obligation>` shows a state and operands that meet the hypotheses of that obligation. -/

namespace Sys2Proof.Tests.Slice0

open Sys2Proof Sys2Proof.Machine

/-! ### Helpers -/

/-- The state of an answered step. -/
def nextOf : Host.Outcome State Fault Refusal → Option State
  | .next s => some s
  | .fault _ => none
  | .refused _ => none

/-- The key of the known-answer test (`spec/95_test_vectors.md` section 1.1). -/
def katKey : Key := 0x133457799BBCDFF1#64

/-- The ciphertext block of the known-answer test. -/
def katBlock : Block := 0x85E813540F0AB405#64

/-- A state in a given phase with `rc` and `kv` as given, the datapath zero. -/
def at' (p : Phase) (rc : Nat) (kv : Bool) (host : List HostItem) : State :=
  { State.reset with phase := p, rc := BitVec.ofNat 5 rc, kv := kv, host := host }

/-- The idle state with the key of the known-answer test loaded. -/
def keyed (host : List HostItem) : State :=
  { at' .idle 16 true host with RK := derive katKey }

/-- A byte string from numbers. -/
def bytes (l : List Nat) : List Byte := l.map fun n => BitVec.ofNat 8 n

/-- A block of eight bytes. -/
def block8 (a b c d e f g h : Byte) : Vector Byte 8 := #v[a, b, c, d, e, f, g, h]

/-! ### Well-formedness smoke: an ill-formed term for each check -/

theorem test_table_entry_zero_refused : tableWellFormed 32 [1, 0, 2] = false := by decide
theorem test_table_entry_past_the_width_refused : tableWellFormed 32 [1, 33] = false := by decide
theorem test_sbox_repeated_entry_refused :
    sboxWellFormed (Vector.replicate 4 (Vector.replicate 16 7#4)) = false := by decide +kernel
theorem test_sboxes_wellFormed : ∀ j : Fin 8, sboxWellFormed (sbox j) = true := by decide +kernel
theorem test_word_of_reserved_opcode_refused : cmdWellFormed 0x03133457799BBCDFF1#72 = false := by decide
theorem test_response_of_reserved_status_refused : rspWellFormed 0x030000000000000000#72 = false := by decide
theorem test_error_response_with_value_refused : rspWellFormed 0x020000000000000001#72 = false := by decide
theorem test_every_instruction_wellFormed :
    (Instr.ldkey 0#64).wellFormed = true ∧ (Instr.decblk 0xFFFFFFFFFFFFFFFF#64).wellFormed = true := by decide

/-! ### Decoding (`spec/95_test_vectors.md` section 3.1): each word written from its fields -/

theorem test_decode_ldkey : decode (0x01#8 ++ 0x133457799BBCDFF1#64) = .ok (.ldkey katKey) := by decide
theorem test_decode_decblk : decode (0x02#8 ++ 0x85E813540F0AB405#64) = .ok (.decblk katBlock) := by decide
theorem test_decode_reserved_80 : decode 0x800000000000000000#72 = .error (.reservedOpcode 0x80#8) := by decide
theorem test_encode_words :
    encode (.ldkey katKey) = 0x01133457799BBCDFF1#72 ∧ encode (.decblk katBlock) = 0x0285E813540F0AB405#72 := by decide
theorem test_decodeTableWord :
    decodeTableWord 72 0x0285E813540F0AB405 = some (.decblk katBlock) ∧ decodeTableWord 72 0x03 = none := by decide

/-! ### The tables (section 3.2), the rotation (3.3), the S-boxes (3.4, 4), the round function (3.4) -/

theorem test_permute_rows :
    permute 0x85E813540F0AB405#64 ip = 0x0A4CD99543423234#64 ∧ permute 0x8000000000000000#64 ipInv = 0x40#64 ∧
    permute katKey pc1 = 0xF0CCAAF556678F#56 ∧ permute 0xE19955FAACCF1E#56 pc2 = 0x1B02EFFC7072#48 ∧
    permute 0x12345678#32 expansionE = 0x0A41A82AC3F0#48 ∧ permute 0x12345678#32 permP = 0x6E34140E#32 := by
  decide +kernel

theorem test_rotl28_rows :
    rotl28 0xC332ABF#28 2 = 0x0CCAAFF#28 ∧ rotl28 0x8000000#28 1 = 1#28 ∧ rotl28 0x4000000#28 2 = 1#28 := by decide

theorem test_sbox_rows :
    sboxLookup s1 0b100000#6 = 4#4 ∧ sboxLookup s1 0b000001#6 = 0#4 ∧ sboxLookup s2 0b010001#6 = 12#4 ∧
    sboxLookup s3 0b011110#6 = 8#4 ∧ sboxLookup s4 0b101010#6 = 11#4 ∧ sboxLookup s5 0b011010#6 = 0#4 ∧
    sboxLookup s8 0b100111#6 = 7#4 := by decide

/-- The outputs of an S-box for the groups 0..63, as one number, the first the leading digit. -/
def flatSBox (S : SBox) : Nat :=
  (List.range 64).foldl (fun acc g => 16 * acc + (sboxLookup S (BitVec.ofNat 6 g)).toNat) 0

theorem test_sboxes_flat :
    flatSBox s1 = 0xE04FD7142EF2BD813AA66CCB599503784F1CE882D46921B7F5CB937E3AA0560D ∧
    flatSBox s2 = 0xF31D84E76FB2384E9C7021DAC6095BA50DE87AB1A34FD4125B86C76C90352EF9 ∧
    flatSBox s3 = 0xAD0790E96334F65A12D8C57EBC4B2F81D16A4D9086F93807B41F2EC35BA5E27C ∧
    flatSBox s4 = 0x7DD8EB35066F90A31427825CB1CA4EF9A36F9006CAB17DD8F91435EB5C27824E ∧
    flatSBox s5 = 0x2ECB421C74A7BD6185503FFAD309E8964B281CB7A1DE728DF69FC0596A3405E3 ∧
    flatSBox s6 = 0xCA1FA4F2972C698506D13D4EE07B53B894E3F25C2985CF3A7B0E41A716D0B86D ∧
    flatSBox s7 = 0x4DB02BE7F40981DA3EC3957C52AF6816164BBDD8C1347AE7A9F5608F0E52932C ∧
    flatSBox s8 = 0xD12F8D486AF3B714AC9536EB500EC97272B14E1794CAE82D0F6CA9D0F335568B := by decide +kernel

theorem test_feistel_rows :
    feistel 0#32 0#48 = 0xD8D8DBBC#32 ∧ feistel 0xDEADBEEF#32 0x0123456789AB#48 = 0xCD42154C#32 ∧
    feistel 0xF0AAF0AA#32 0x1B02EFFC7072#48 = 0x234AA9BB#32 := by decide +kernel

/-! ### Key schedule (rule R126, section 3.3), decryption (section 3.5), rounds (rule R177) -/

theorem test_derive_kat :
    (derive katKey).get 0 = 0x1B02EFFC7072#48 ∧ (derive katKey).get 1 = 0x79AED9DBC9E5#48 ∧
    (derive katKey).get 15 = 0xCB3D8B0E17F5#48 := by decide +kernel

theorem test_derive_key_position_1 :
    (derive 0x8000000000000000#64).toList =
      [0x000010000000#48, 0x004000000000#48, 0x000100000000#48, 0x000001000000#48] ++
      [0x010000000000#48, 0x000080000000#48, 0x100000000000#48, 0x000000000000#48] ++
      [0x002000000000#48, 0x000400000000#48, 0x400000000000#48, 0x008000000000#48] ++
      [0x000002000000#48, 0x200000000000#48, 0x000000000000#48, 0x000040000000#48] := by decide +kernel

theorem test_known_answer : decryptBlock katBlock (derive katKey) = 0x0123456789ABCDEF#64 := by decide +kernel
theorem test_decrypt_last_bit_changed :
    decryptBlock 0x85E813540F0AB404#64 (derive katKey) = 0x242FB5B08EED3339#64 := by decide +kernel
theorem test_encrypt_harness : encryptBlock 0x0123456789ABCDEF#64 (derive katKey) = katBlock := by decide +kernel
theorem test_halves_after_5_rounds :
    halvesAfter (derive katKey) katBlock 5 = ⟨0xC5783C78#32, 0xB7D5D7B2#32⟩ := by decide +kernel

/-! ### One step of each kind (section 5, program P1; section 3.8) -/

theorem test_ldkey_accept :
    (nextOf (execLdkey katKey State.reset)).map (fun s => (s.phase, s.kv, s.C, s.D)) =
      some (.ks, false, 0xF0CCAAF#28, 0x556678F#28) := by decide +kernel

theorem test_decblk_accept :
    (nextOf (execDecblk katBlock (at' .idle 16 true []))).map (fun s => (s.phase, s.rc, s.L, s.R)) =
      some (.rnd, 0#5, 0x0A4CD995#32, 0x43423234#32) := by decide +kernel

theorem test_decblk_without_key :
    (nextOf (execDecblk katBlock State.reset)) = some { State.reset with out := [0x020000000000000000#72] } := by
  decide +kernel

theorem test_ks_step :
    (nextOf (step { at' .ks 1 false [] with C := 0xE19955F#28, D := 0xAACCF1E#28 })).map
      (fun s => (s.rc, s.C, s.D, s.RK.get 1)) =
        some (2#5, 0xC332ABF#28, 0x5599E3D#28, 0x79AED9DBC9E5#48) := by decide +kernel

theorem test_rnd_step :
    (nextOf (step { at' .rnd 0 true [] with
      L := 0x0A4CD995#32, R := 0x43423234#32, RK := Vector.replicate 16 0xCB3D8B0E17F5#48 })).map
      (fun s => (s.phase, s.rc, s.L, s.R)) = some (.rnd, 1#5, 0x43423234#32, 0xC28C960D#32) := by decide +kernel

theorem test_fin_step :
    (nextOf (step { at' .fin 16 true [] with L := 0xF0AAF0AA#32, R := 0xCC00CCFF#32 })).map
      (fun s => (s.phase, s.rc, s.out)) = some (.idle, 16#5, [0x000123456789ABCDEF#72]) := by decide +kernel

theorem test_reserved_word_step :
    (nextOf (step (at' .idle 16 true [.command 0xFF0123456789ABCDEF#72]))) =
      some { at' .idle 16 true [] with out := [0x010000000000000000#72] } := by decide +kernel

theorem test_busy_command_waits :
    (nextOf (step (at' .rnd 5 true [.command 0x01133457799BBCDFF1#72]))).map (fun s => (s.rc, s.host)) =
      some (6#5, [.command 0x01133457799BBCDFF1#72]) := by decide +kernel

theorem test_busy_withdrawn_offer_is_lost :
    (nextOf (step (at' .rnd 5 true [.offerOnce 0x01133457799BBCDFF1#72]))).map (fun s => s.host) = some [] := by
  decide +kernel

theorem test_reset_step :
    (nextOf (step (at' .rnd 5 true [.reset]))).map (fun s => (s.phase, s.rc, s.kv, s.out)) =
      some (.idle, 0#5, false, []) := by decide

/-! ### The host driver (sections 3.6, 3.7; program P6) and the script syntax (`spec/30_encoding.md` section 5) -/

theorem test_padding_rows :
    stripPadding (block8 0x48 0x65 0x6C 0x6C 0x6F 3 3 3) = .ok (bytes [0x48, 0x65, 0x6C, 0x6C, 0x6F]) ∧
    stripPadding (block8 8 8 8 8 8 8 8 8) = .ok [] ∧
    stripPadding (block8 0x41 0x42 0x43 0x44 0x45 0x46 0x47 0) = .error .paddingError ∧
    stripPadding (block8 0x41 0x42 0x43 0x44 0x45 0x46 0x47 9) = .error .paddingError ∧
    stripPadding (block8 8 8 8 8 8 8 8 7) = .error .paddingError := by decide

theorem test_stream_hello :
    decryptStream (bytesOfBlock katKey) (bytes [0x05, 0xA8, 0xE9, 0x94, 0xFE, 0x65, 0x65, 0x31]) =
      .ok (bytes [0x48, 0x65, 0x6C, 0x6C, 0x6F]) := by decide +kernel

theorem test_stream_two_blocks :
    decryptStream (bytesOfBlock katKey)
      (bytes ([0x8E, 0x23, 0x8B, 0x5F, 0x06, 0xCB, 0xE8, 0xEE] ++ [0x63, 0x93, 0x7D, 0x62, 0xAE, 0x45, 0x20, 0xD5])) =
      .ok (bytes [0x43, 0x4F, 0x4D, 0x53, 0x2D, 0x31, 0x20, 0x4C, 0x52, 0x49, 0x54, 0x21, 0x21]) := by decide +kernel

theorem test_stream_bad_padding :
    decryptStream (bytesOfBlock katKey) (bytes [0x85, 0xE8, 0x13, 0x54, 0x0F, 0x0A, 0xB4, 0x05]) =
      .error .paddingError := by decide +kernel

theorem test_stream_of_seven_bytes :
    decryptStream (bytesOfBlock katKey) (List.replicate 7 0#8) = .error .inputFormatError := by decide

theorem test_script_command_line :
    parseLine "DECBLK 0x85E813540F0AB405 -> NO_KEY 0x0000000000000000 ; before a key".toList =
      some (.item (.decblk katBlock) (.response .noKey 0#64)) := by decide +kernel

theorem test_script_stream_line :
    parseLine "DECSTREAM 0x133457799BBCDFF1, 00 => InputFormatError".toList =
      some (.stream ⟨bytesOfBlock katKey, [0#8]⟩ (.error .inputFormatError)) := by decide +kernel

theorem test_script_response_in_comment :
    parseLine "RAW 0x000000000000000000 ; -> ILLEGAL_OP 0x0000000000000000".toList =
      some (.item (.raw 0#72) .none) := by decide +kernel

theorem test_script_result_on_its_own_line :
    parseLine "    => 43 4f".toList = some (.result (.plaintext [0x43#8, 0x4F#8])) := by decide +kernel

/-- Program P5: five RND steps run before the reset. -/
theorem test_script_reset_waits :
    scriptHost (fun _ => 5) 0 [.decblk katBlock, .reset, .decblk katBlock] =
      [.command 0x0285E813540F0AB405#72] ++ List.replicate 5 .idle ++
        [.reset, .command 0x0285E813540F0AB405#72] := by decide

theorem test_memWrite_inside : memWrite [1#8, 2#8, 3#8] 1 [9#8] = [1#8, 9#8, 3#8] := by decide

/-! ### Witnesses: the hypotheses of each obligation are met, at the ends of their ranges -/

theorem wit_DecodeFollowsTheOpcodeMap :
    (0x01133457799BBCDFF1#72 : CmdWord).toNat / 2 ^ 64 = 0x01 ∧ (0x0285E813540F0AB405#72 : CmdWord).toNat / 2 ^ 64 = 0x02 ∧
    (0x00FFFFFFFFFFFFFFFF#72 : CmdWord).toNat / 2 ^ 64 ≠ 0x01 ∧ (0x03FFFFFFFFFFFFFFFF#72 : CmdWord).toNat / 2 ^ 64 ≠ 0x02 := by
  decide

theorem wit_PermuteCopiesTheNamedPosition :
    expansionE.entries[1 - 1]? = some 32 ∧ expansionE.entries[48 - 1]? = some 1 ∧
    pos (permute 0x80000000#32 expansionE) 48 = pos 0x80000000#32 1 := by decide +kernel

theorem wit_RotationFollowsItsFormula : (1 = 1 ∨ 1 = 2) ∧ (2 = 1 ∨ 2 = 2) := by decide

theorem wit_HalvesAreCumulativeRotations :
    0 ≤ 16 ∧ (keyHalvesAfter katKey 0).C = 0xF0CCAAF#28 ∧ 16 ≤ 16 ∧ (keyHalvesAfter katKey 15).C = 0xF866557#28 := by
  decide +kernel

theorem wit_ParityPositionsDoNotReachTheSubkeys :
    ∀ p, p < 65 → 1 ≤ p → p % 8 ≠ 0 → pos (0x133457799BBCDFF1#64 : Key) p = pos (0x123456789ABCDEF0#64 : Key) p := by
  decide

theorem wit_EveryNonParityBitReachesTwelveSubkeys :
    pos (0x8000000000000000#64 : Key) 1 ≠ pos (0#64 : Key) 1 ∧ 63 % 8 ≠ 0 ∧ pos (2#64 : Key) 63 ≠ pos (0#64 : Key) 63 := by
  decide

theorem wit_LdkeyAcceptStepLoadsTheHalves : State.reset.phase = .idle := rfl

theorem wit_DecblkAcceptStepLoadsTheHalves :
    (keyed []).phase = .idle ∧ (keyed []).kv = true ∧ State.reset.phase = .idle ∧ State.reset.kv = false := ⟨rfl, rfl, rfl, rfl⟩

theorem wit_DecblkWithoutAKeyAnswersNoKey :
    (State.reset.phase = .idle ∧ State.reset.kv = false) ∧
    (∃ t, (at' .rnd 5 true [.reset]).rstPort = true ∧ step (at' .rnd 5 true [.reset]) = .next t) ∧
    (∃ t, step (at' .ks 15 false []) = .next t ∧ (at' .ks 15 false []).kv = false ∧ t.kv = true) := by
  refine ⟨⟨rfl, rfl⟩, ⟨_, rfl, step_reset rfl⟩, _, step_ks (r := 15) rfl rfl (by decide), rfl, ?_⟩
  rw [ksRound_eq]
  rfl

theorem wit_ReservedOpcodeAnswersIllegalOp :
    (0x00#8 : Opcode) ≠ 0x01#8 ∧ (0x00#8 : Opcode) ≠ 0x02#8 ∧ (0x03#8 : Opcode) ≠ 0x01#8 ∧ (0x03#8 : Opcode) ≠ 0x02#8 ∧
    (at' .idle 16 true [.command (0x03#8 ++ 5#64)]).cmdPort = some (0x03#8 ++ 5#64) := by decide

theorem wit_AcceptStepsLeaveTheRestUnchanged :
    (∃ t, exec (.ldkey katKey) State.reset = .next t) ∧ (∃ t, exec (.ldkey katKey) (at' .rnd 3 true []) = .next t) ∧
    (∃ t, exec (.decblk katBlock) (keyed []) = .next t ∧ (keyed []).kv = true) ∧
    (∃ t, exec (.decblk katBlock) State.reset = .next t ∧ State.reset.kv = false) :=
  ⟨⟨_, rfl⟩, ⟨_, rfl⟩, ⟨_, rfl, rfl⟩, ⟨_, rfl, rfl⟩⟩

/-- The state right after an LDKEY is accepted, which meets the invariant and is busy. -/
def loading : State := ldkeyAccept katKey State.reset

theorem loading_inv : loading.Inv :=
  ⟨by intro w hw; exact absurd hw (by simp [loading, ldkeyAccept, State.reset, State.launch]),
    by simp [loading, ldkeyAccept], rfl, katKey, rfl, by intro r hr; exact absurd hr (by simp [loading, ldkeyAccept])⟩

theorem wit_BusySequencerLetsCommandsWait :
    (∃ t, (at' .rnd 5 true [.command 0#72]).phase ≠ .idle ∧ step (at' .rnd 5 true [.command 0#72]) = .next t) ∧
    loading.Inv ∧ loading.phase ≠ .idle ∧ busyResetFree 17 loading.host = true :=
  ⟨⟨_, by decide, step_rnd (r := 5) rfl rfl (by decide)⟩, loading_inv, by decide, by decide⟩

theorem wit_StepRunsTheDecodedInstruction :
    (at' .idle 0 false [.command (encode (.ldkey katKey))]).phase = .idle ∧
    (at' .idle 0 false [.command (encode (.ldkey katKey))]).cmdPort = some (encode (.ldkey katKey)) ∧
    decode (encode (.ldkey katKey)) = .ok (.ldkey katKey) := ⟨rfl, rfl, by decide⟩

theorem wit_KsStepRunsOneScheduleRound :
    (at' .ks 0 false []).rstPort = false ∧ (at' .ks 0 false []).phase = .ks ∧ (at' .ks 0 false []).rc.toNat = (0 : Round).val ∧
    (at' .ks 15 false []).rc.toNat = (15 : Round).val ∧ (15 : Round).val = 15 ∧ (0 : Round) ≠ 15 := by decide

theorem wit_RndStepRunsOneFeistelRound :
    (at' .rnd 0 true []).rstPort = false ∧ (at' .rnd 0 true []).phase = .rnd ∧
    (at' .rnd 0 true []).rc.toNat = (0 : Round).val ∧ (at' .rnd 15 true []).rc.toNat = (15 : Round).val := by decide

theorem wit_FinStepDeliversThePlaintext :
    (at' .fin 16 true []).rstPort = false ∧ (at' .fin 16 true []).phase = .fin := by decide

theorem wit_ResetStepClearsTheControlState :
    (at' .fin 16 true [.reset]).rstPort = true ∧
    (∃ t, step (keyed [.reset]) = .next t ∧ (keyed [.reset]).kv = true ∧ t.kv = false) ∧
    (∃ t, step (keyed [.command (encode (.ldkey katKey))]) = .next t ∧ t.kv = false) ∧
    (∃ t, step (at' .fin 16 true []) = .next t ∧ (at' .fin 16 true []).rstPort = false ∧
      (at' .fin 16 true []).phase ≠ .idle ∧ t.phase = .idle) := by
  refine ⟨rfl, ⟨_, step_reset rfl, rfl, rfl⟩, ?_, ⟨_, step_fin rfl rfl, rfl, by decide, rfl⟩⟩
  refine ⟨ldkeyAccept katKey (keyed []), ?_, rfl⟩
  rw [step_accept rfl rfl, acceptWord, show decode (encode (.ldkey katKey)) = .ok (.ldkey katKey) from Laws.RoundTrip.ldkey katKey]
  rfl

theorem wit_StateAfterResetIsAsStated :
    ∃ t, (at' .rnd 5 true [.reset]).rstPort = true ∧ step (at' .rnd 5 true [.reset]) = .next t := ⟨_, rfl, step_reset rfl⟩

theorem wit_ResetAbandonsTheOperation :
    ∃ t, (at' .ks 3 false [.reset]).rstPort = true ∧ step (at' .ks 3 false [.reset]) = .next t ∧
      (at' .ks 3 false [.reset]).host.tail = [] := ⟨_, rfl, step_reset rfl, rfl⟩

theorem wit_IdleMachineStaysPut : State.reset.phase = .idle ∧ State.reset.host = [] := ⟨rfl, rfl⟩

/-- Witness of every obligation about any step that answers a next state: one step of each kind. -/
theorem wit_steps_of_every_kind :
    (∃ t, step (at' .idle 0 false [.idle]) = .next t) ∧ (∃ t, step (at' .idle 0 false [.command 0#72]) = .next t) ∧
    (∃ t, step (at' .ks 0 false []) = .next t) ∧ (∃ t, step (at' .ks 15 false []) = .next t) ∧
    (∃ t, step (at' .rnd 0 true []) = .next t) ∧ (∃ t, step (at' .rnd 15 true []) = .next t) ∧
    (∃ t, step (at' .fin 16 true []) = .next t) ∧ (∃ t, step (at' .fin 16 true [.reset]) = .next t) :=
  ⟨⟨_, step_idle rfl rfl rfl⟩, ⟨_, (step_accept rfl rfl).trans (acceptWord_idle _ rfl)⟩,
    ⟨_, step_ks (r := 0) rfl rfl (by decide)⟩, ⟨_, step_ks (r := 15) rfl rfl (by decide)⟩,
    ⟨_, step_rnd (r := 0) rfl rfl (by decide)⟩, ⟨_, step_rnd (r := 15) rfl rfl (by decide)⟩,
    ⟨_, step_fin rfl rfl⟩, ⟨_, step_reset rfl⟩⟩

theorem wit_PhaseMovesAreTheSequencers : ∃ t, step (at' .ks 15 false []) = .next t := wit_steps_of_every_kind.2.2.2.1

theorem wit_OnlyTheNamedStepsWriteARegister :
    ∃ t, step (at' .ks 15 false []) = .next t ∧ (at' .ks 15 false []).rstPort = false ∧ t.rc ≠ (at' .ks 15 false []).rc := by
  refine ⟨_, step_ks (r := 15) rfl rfl (by decide), rfl, ?_⟩
  rw [ksRound_eq]
  decide

theorem wit_ResponsesComeOneAtATime :
    ∃ t, step (at' .fin 16 true []) = .next t ∧ (at' .fin 16 true []).rstPort = false := ⟨_, step_fin rfl rfl, rfl⟩

theorem wit_EveryStepKeepsTheInvariant : ∃ t, loading.Inv ∧ step loading = .next t :=
  ⟨_, loading_inv, step_ks (r := 0) rfl rfl (by decide)⟩

theorem wit_NoRunStopsFromTheInvariant : loading.Inv := loading_inv

/-- The state whose host offers `w` next, and `rest` after it. -/
def offering (kv : Bool) (w : CmdWord) (rest : List HostItem) : State := at' .idle 0 kv (.command w :: rest)

theorem wit_CommandsAnswerAfterFixedSteps :
    (offering false (encode (.ldkey katKey)) [.command 0#72]).phase = .idle ∧
    (offering false (encode (.ldkey katKey)) [.command 0#72]).cmdPort = some (encode (.ldkey katKey)) ∧
    cmdOp (encode (.ldkey katKey)) = 0x01#8 ∧ cmdOp (encode (.decblk katBlock)) = 0x02#8 ∧
    busyResetFree (17 - 1) [.command 0#72] = true ∧ busyResetFree (18 - 1) [.idle, .offerOnce 0#72] = true ∧
    busyResetFree (1 - 1) [.reset] = true := by decide

theorem wit_KsStepsHoldTheSchedule :
    (offering false (encode (.ldkey katKey)) []).cmdPort = some (encode (.ldkey katKey)) ∧
    decode (encode (.ldkey katKey)) = .ok (.ldkey katKey) ∧
    busyResetFree 0 [.reset] = true ∧ busyResetFree 16 [] = true := by decide

theorem wit_RndStepsHoldTheHalves :
    (offering true (encode (.decblk katBlock)) []).kv = true ∧
    (offering true (encode (.decblk katBlock)) []).cmdPort = some (encode (.decblk katBlock)) ∧
    decode (encode (.decblk katBlock)) = .ok (.decblk katBlock) ∧ busyResetFree 16 [] = true := by decide

theorem wit_LdkeyRunHasItsWholeEffect :
    (offering true (encode (.ldkey katKey)) []).phase = .idle ∧
    (offering true (encode (.ldkey katKey)) []).cmdPort = some (encode (.ldkey katKey)) ∧
    decode (encode (.ldkey katKey)) = .ok (.ldkey katKey) ∧ busyResetFree 16 [] = true := by decide

theorem wit_DecblkRunHasItsWholeEffect :
    (offering true (encode (.decblk katBlock)) []).cmdPort = some (encode (.decblk katBlock)) ∧
    decode (encode (.decblk katBlock)) = .ok (.decblk katBlock) ∧
    (offering true (encode (.decblk katBlock)) []).kv = true ∧ busyResetFree 17 [] = true ∧
    (offering false (encode (.decblk katBlock)) []).kv = false := by decide

theorem wit_ScriptRunIsItsTransactions :
    (offering false (encode (.decblk katBlock)) [.command 0#72]).phase = .idle ∧
    (offering false (encode (.decblk katBlock)) [.command 0#72]).host = [encode (.decblk katBlock), 0#72].map .command := by
  decide

theorem wit_BlocksAreDecryptedIndependently :
    (keyed [.command (encode (.decblk katBlock))]).phase = .idle ∧ (keyed [.command (encode (.decblk katBlock))]).kv = true ∧
    (keyed [.command (encode (.decblk katBlock))]).host = [katBlock].map (fun c => .command (encode (.decblk c))) :=
  ⟨rfl, rfl, rfl⟩

theorem wit_LengthCheckComesBeforeAnyCommand :
    ([] : List Byte).length = 0 ∧ (List.replicate 7 0#8).length % 8 ≠ 0 ∧ (List.replicate 9 0#8).length % 8 ≠ 0 := by decide

theorem wit_StreamOutputIsShorterByThePadCount :
    ∃ out, decryptStream (bytesOfBlock katKey) (bytes [0x05, 0xA8, 0xE9, 0x94, 0xFE, 0x65, 0x65, 0x31]) = .ok out :=
  ⟨_, test_stream_hello⟩

theorem wit_HostReadsAndWritesMoveTheNamedBytes :
    (0 < 8 ∧ 0 + 0 < (List.replicate 8 0#8).length) ∧ (7 < 8 ∧ 0 + 7 < (List.replicate 8 0#8).length) ∧
    (0 < [9#8].length) ∧ (0 < 3 ∧ (0 < 1 ∨ 1 + [9#8].length ≤ 0)) ∧ (2 < 3 ∧ (2 < 1 ∨ 1 + [9#8].length ≤ 2)) := by decide

theorem wit_StreamCommandsTakeTheStatedSteps : (keyed []).phase = .idle := rfl

theorem wit_DriverRunsTheStreamOnTheHardware :
    loading.Inv ∧ State.reset.phase = .idle ∧ inputLengthOk (List.replicate 8 0#8) = true := ⟨loading_inv, rfl, by decide⟩

theorem wit_DecstreamExpandsToTheDriversCommands :
    (List.replicate 8 0#8).length ≠ 0 ∧ (List.replicate 8 0#8).length % 8 = 0 ∧ (List.replicate 7 0#8).length % 8 ≠ 0 := by
  decide

end Sys2Proof.Tests.Slice0
end

/-! The phase after each move of the sequencer (`spec/10_state.md` rule R25), and the obligation O35 assembled from
them. -/

namespace Sys2Proof.Machine

/-! ### The phase after each move -/

/-- The accept step of LDKEY enters KS (rule R121). -/
@[simp] theorem ldkeyAccept_phase (key : Key) (s : State) : (ldkeyAccept key s).phase = .ks := rfl

/-- The accept step of DECBLK enters RND when a key is loaded (rule R169); `NO_KEY` keeps the phase (rule R222). -/
theorem decblkAccept_phase (block : Block) (s : State) :
    (decblkAccept block s).phase = if s.kv then .rnd else s.phase := by
  cases hkv : s.kv with
  | true => simp [decblkAccept_key block s hkv]
  | false => simp [decblkAccept_noKey block s hkv]

/-- The sixteenth KS step, and no other, leaves KS for IDLE (rule R122). -/
theorem ksRound_phase (r : Round) (s : State) :
    (ksRound r s).phase = if r.val < 15 then s.phase else .idle := by
  rw [ksRound_eq]
  by_cases hr : r.val = 15
  · simp [hr]
  · have hlt : r.val < 15 := by omega
    simp [hr, hlt]

/-- The sixteenth RND step, and no other, leaves RND for FIN (rule R170). -/
theorem rndRound_phase (r : Round) (s : State) :
    (rndRound r s).phase = if r.val < 15 then s.phase else .fin := by
  rw [rndRound_eq]
  by_cases hr : r.val = 15
  · simp [hr]
  · have hlt : r.val < 15 := by omega
    simp [hr, hlt]

/-- The FIN step returns to IDLE (rule R171). -/
@[simp] theorem finRound_phase (s : State) : (finRound s).phase = .idle := rfl

/-! ### The transitions of rule R25 -/

/-- Settles O35: every case of `step_cases` makes the transition that rule R25 names for it. -/
theorem phaseMovesAreTheSequencers : Obligations.PhaseMovesAreTheSequencers := by
  unfold Obligations.PhaseMovesAreTheSequencers
  intro s t h
  obtain ⟨hr, rfl⟩ | ⟨hr, hp, hc, rfl⟩ | ⟨w, key, hr, hp, hc, hd, rfl⟩ | ⟨w, block, hr, hp, hc, hd, rfl⟩ |
    ⟨w, e, hr, hp, hc, hd, rfl⟩ | ⟨r, hr, hp, hn, rfl⟩ | ⟨r, hr, hp, hn, rfl⟩ | ⟨hr, hp, rfl⟩ := step_cases h
  · simp [phaseMove, hr]
  · simp [phaseMove, hr, hp, hc]
  · simp [phaseMove, hr, hp, hc, hd]
  · simp [phaseMove, hr, hp, hc, hd, decblkAccept_phase]
  · simp [phaseMove, hr, hp, hc, hd]
  · simp [phaseMove, hr, hp, hn, ksRound_phase]
  · simp [phaseMove, hr, hp, hn, rndRound_phase]
  · simp [phaseMove, hr, hp]

end Sys2Proof.Machine

/-! The two fields of a command word as numbers (`spec/30_encoding.md` rule R70), what `decode` answers by the opcode
field, and the obligation O2 assembled from them. -/

namespace Sys2Proof

/-! ### The fields of a command word as numbers (rule R70) -/

/-- Nothing stands above bit 71, so the opcode field is the whole of the word above bit 63. -/
theorem cmdOp_toNat (w : CmdWord) : (cmdOp w).toNat = w.toNat / 2 ^ 64 := by
  have hw : w.toNat < 2 ^ 72 := w.isLt
  have hlt : w.toNat / 2 ^ 64 < 2 ^ 8 := by omega
  rw [cmdOp, BitVec.extractLsb'_toNat, Nat.shiftRight_eq_div_pow, Nat.mod_eq_of_lt hlt]

theorem cmdOp_eq_ofNat (w : CmdWord) : cmdOp w = BitVec.ofNat 8 (w.toNat / 2 ^ 64) := by
  rw [← cmdOp_toNat, BitVec.ofNat_toNat, BitVec.setWidth_eq]

theorem cmdArg_eq_ofNat (w : CmdWord) : cmdArg w = BitVec.ofNat 64 (w.toNat % 2 ^ 64) := by
  apply BitVec.eq_of_toNat_eq
  rw [cmdArg, BitVec.extractLsb'_toNat, Nat.shiftRight_zero, BitVec.toNat_ofNat, Nat.mod_mod]

/-- An opcode field is told apart by its number. -/
theorem cmdOp_eq_iff (w : CmdWord) (op : Opcode) : cmdOp w = op ↔ w.toNat / 2 ^ 64 = op.toNat := by
  rw [← BitVec.toNat_inj, cmdOp_toNat]

/-! ### The answers of `decode` by the opcode field (rule R79) -/

theorem decode_of_opLdkey {w : CmdWord} (h : cmdOp w = opLdkey) : decode w = .ok (.ldkey (cmdArg w)) :=
  if_pos h

theorem decode_of_opDecblk {w : CmdWord} (h : cmdOp w = opDecblk) : decode w = .ok (.decblk (cmdArg w)) := by
  have hne : cmdOp w ≠ opLdkey := by rw [h]; decide
  rw [decode, if_neg hne, if_pos h]

theorem decode_of_reserved {w : CmdWord} (h1 : cmdOp w ≠ opLdkey) (h2 : cmdOp w ≠ opDecblk) :
    decode w = .error (.reservedOpcode (cmdOp w)) := by
  rw [decode, if_neg h1, if_neg h2]

/-- Settles O2: `cmdOp_eq_iff` turns each clause's number into the opcode field, whose answer is then one of the three
above. -/
theorem decodeFollowsTheOpcodeMap : Obligations.DecodeFollowsTheOpcodeMap := by
  unfold Obligations.DecodeFollowsTheOpcodeMap
  intro w
  rw [← cmdArg_eq_ofNat, ← cmdOp_eq_ofNat]
  refine ⟨fun h => ?ldkey, fun h => ?decblk, fun h1 h2 => ?reserved⟩
  case ldkey => exact decode_of_opLdkey ((cmdOp_eq_iff w opLdkey).mpr h)
  case decblk => exact decode_of_opDecblk ((cmdOp_eq_iff w opDecblk).mpr h)
  case reserved =>
    exact decode_of_reserved (mt (cmdOp_eq_iff w opLdkey).mp h1) (mt (cmdOp_eq_iff w opDecblk).mp h2)

end Sys2Proof

/-! The key schedule: its cumulative rotations (`spec/41_key_schedule.md` rules R112, R113), its loop's registers after any
number of rounds (rule R110), and the accept step of LDKEY (rule R121); the obligations O10, O11 and O21 assembled from
them. -/

namespace Sys2Proof.Machine

/-! ### The rotations are cumulative (rule R112) -/

theorem shift_eq (r : Round) : shift r = if r.val + 1 ∈ [1, 2, 9, 16] then 1 else 2 := by
  revert r
  decide

/-- Rule R113 in the library's rotation. -/
theorem rotateKeyHalves_eq_rotateLeft (r : Round) (cd : KeyHalves) :
    rotateKeyHalves r cd = ⟨cd.C.rotateLeft (shift r), cd.D.rotateLeft (shift r)⟩ := by
  rw [rotateKeyHalves, rotl28_eq_rotateLeft _ _ (shift_lt r), rotl28_eq_rotateLeft _ _ (shift_lt r)]

/-- The total of the rotation amounts of the first `n` rounds. -/
def shiftTotal (n : Nat) : Nat := ((List.range' 1 n).map fun r => shift (Fin.ofNat 16 (r - 1))).sum

@[simp] theorem shiftTotal_zero : shiftTotal 0 = 0 := rfl

@[simp] theorem shiftTotal_succ (n : Nat) : shiftTotal (n + 1) = shiftTotal n + shift (Fin.ofNat 16 n) := by
  simp [shiftTotal, List.range'_1_concat]

/-- After `n` rounds each half is its first value, rotated once by the total so far. -/
theorem keyHalvesAfter_eq_rotateLeft (key : Key) (n : Nat) :
    keyHalvesAfter key n =
      ⟨(initialKeyHalves key).C.rotateLeft (shiftTotal n), (initialKeyHalves key).D.rotateLeft (shiftTotal n)⟩ := by
  induction n with
  | zero => rw [keyHalvesAfter, shiftTotal_zero, rotateLeft_zero28, rotateLeft_zero28]
  | succ n ih =>
    rw [keyHalvesAfter, ih, rotateKeyHalves_eq_rotateLeft, shiftTotal_succ, rotateLeft_rotateLeft28,
      rotateLeft_rotateLeft28]

/-- Settles O10: the amounts are `shift_eq`, the halves `keyHalvesAfter_eq_rotateLeft`. -/
theorem halvesAreCumulativeRotations : Obligations.HalvesAreCumulativeRotations := by
  unfold Obligations.HalvesAreCumulativeRotations
  refine ⟨shift_eq, fun key n _ => ?_⟩
  rw [keyHalvesAfter_eq_rotateLeft]
  exact ⟨rfl, rfl⟩

/-! ### The loop of `derive` (rule R110) -/

/-- The registers of the loop: C, D and the subkeys appended so far. -/
abbrev ScheduleRegs := HalfKey × HalfKey × List Subkey

/-- The body of the loop, for the round the spec counts as `r`. -/
def scheduleBody (st : ScheduleRegs) (r : Nat) : ScheduleRegs :=
  let c := rotl28 st.1 (shift (Fin.ofNat 16 (r - 1)))
  let d := rotl28 st.2.1 (shift (Fin.ofNat 16 (r - 1)))
  (c, d, st.2.2 ++ [permute (c ++ d) pc2])

/-- The registers after `n` rounds, in the words of the model. -/
def scheduleRegsAfter (key : Key) (n : Nat) : ScheduleRegs :=
  ((keyHalvesAfter key n).C, (keyHalvesAfter key n).D,
    (List.range n).map fun i => selectSubkey (keyHalvesAfter key (i + 1)))

/-- One run of the body is one rotation of the halves and one subkey more. -/
theorem scheduleBody_scheduleRegsAfter (key : Key) (n : Nat) :
    scheduleBody (scheduleRegsAfter key n) (n + 1) = scheduleRegsAfter key (n + 1) := by
  simp [scheduleBody, scheduleRegsAfter, List.range_succ, keyHalvesAfter, rotateKeyHalves, selectSubkey]

theorem foldl_scheduleBody (key : Key) (n : Nat) :
    (List.range' 1 n).foldl scheduleBody (scheduleRegsAfter key 0) = scheduleRegsAfter key n := by
  induction n with
  | zero => rfl
  | succ n ih => rw [List.range'_1_concat, List.foldl_concat, ih, Nat.add_comm 1 n, scheduleBody_scheduleRegsAfter]

/-- The subkeys of `derive` are those the loop has appended after sixteen rounds. -/
theorem derive_toList (key : Key) : (derive key).toList = (scheduleRegsAfter key 16).2.2 := by
  simp only [derive, scheduleRegsAfter, Vector.toList_ofFn, List.ofFn_eq_map, ← List.map_coe_finRange_eq_range,
    List.map_map, Function.comp_def]

/-- Settles O11: the loop's registers after its sixteen rounds, by `foldl_scheduleBody`. -/
theorem deriveIsTheSchedulesLoop : Obligations.DeriveIsTheSchedulesLoop := by
  unfold Obligations.DeriveIsTheSchedulesLoop
  intro key
  rw [derive_toList, ← foldl_scheduleBody]
  rfl

/-! ### The accept step of LDKEY (rule R121) -/

/-- Rule R28: LDKEY is accepted in every idle state. -/
theorem exec_ldkey_idle (key : Key) {s : State} (h : s.phase = .idle) :
    exec (.ldkey key) s = .next (ldkeyAccept key s) :=
  acceptWhenIdle_idle (ldkeyAccept key) h

/-- Settles O21: the state that `ldkeyAccept` leaves, written out field by field. -/
theorem ldkeyAcceptStepLoadsTheHalves : Obligations.LdkeyAcceptStepLoadsTheHalves := by
  unfold Obligations.LdkeyAcceptStepLoadsTheHalves
  intro key s hp
  rw [exec_ldkey_idle key hp]
  rfl

end Sys2Proof.Machine

/-! The S-box stage lane by lane: the groups of six (`spec/42_feistel_round.md` rule R133), the row and column of a group
(rule R134), the place of a lane's output (rule R143), and the obligation O15 assembled from them. -/

namespace Sys2Proof.Machine

/-! ### The groups, their rows and columns (rules R133, R134) -/

/-- Position `k` of group `j` is position `6(j-1) + k` of the 48-bit value. -/
theorem pos_sboxGroup (x : Subkey) (j : Fin 8) {k : Nat} (h1 : 1 ≤ k) (h6 : k ≤ 6) :
    pos (sboxGroup x j) k = pos x (6 * j.val + k) := by
  have hk : 6 - k < 6 := by omega
  rw [pos, pos, sboxGroup, BitVec.getLsbD_extractLsb', decide_eq_true hk, Bool.true_and]
  congr 1
  omega

/-- The row of a group is the two-bit number `b1 b6`. -/
theorem sboxRow_toFin (g : SixBits) :
    (sboxRow g).toFin = Fin.ofNat 4 (2 * (pos g 1).toNat + (pos g 6).toNat) := by
  revert g
  decide

/-- The column of a group is the four-bit number `b2 b3 b4 b5`. -/
theorem sboxCol_toFin (g : SixBits) :
    (sboxCol g).toFin =
      Fin.ofNat 16 (8 * (pos g 2).toNat + 4 * (pos g 3).toNat + 2 * (pos g 4).toNat + (pos g 5).toNat) := by
  revert g
  decide

/-! ### The place of a lane's output (rule R143) -/

/-- Nibble `j` of the S-box stage is the output of lane `j` and of no other. -/
theorem extractLsb'_substitute (x : Subkey) (j : Fin 8) :
    (substitute x).extractLsb' (28 - 4 * j.val) 4 = sboxLane x j := by
  rw [show 28 - 4 * j.val = 4 * (7 - j.val) by omega]
  exact extractLsb'_append8 (sboxLane x) j

/-- Settles O15: nibble `j` is lane `j`'s entry, whose row and column are read off the positions of group `j`. -/
theorem eachSBoxLaneLooksUpItsGroup : Obligations.EachSBoxLaneLooksUpItsGroup := by
  unfold Obligations.EachSBoxLaneLooksUpItsGroup
  intro x j
  rw [extractLsb'_substitute, sboxLane, sboxLookup, sboxRow_toFin, sboxCol_toFin]
  simp only [pos_sboxGroup x j, Nat.reduceLeDiff, Nat.le_refl]

end Sys2Proof.Machine

/-! The block cipher: its loop's halves after any number of rounds (`spec/43_block_cipher.md` rule R160) and the accept
step of DECBLK (rules R169, R222); the obligations O17 and O22 assembled from them. -/

namespace Sys2Proof.Machine

/-! ### The loop of `decryptBlock` (rule R160) -/

/-- The body of the loop on the pair (L, R), for the round the spec counts as `r`. -/
def cipherBody (keys : RoundKeySet) (lr : HalfBlock × HalfBlock) (r : Nat) : HalfBlock × HalfBlock :=
  (lr.2, lr.1 ^^^ feistel lr.2 (keys.get (Fin.ofNat 16 (17 - r - 1))))

/-- The model's two halves as the loop's pair. -/
def Halves.toPair (lr : Halves) : HalfBlock × HalfBlock := (lr.L, lr.R)

/-- Rule R163: the round counted from 0 as `n` is the spec's round `n + 1`, whose subkey is `keys[17 - (n + 1)]`. -/
theorem decryptSubkey_ofNat (keys : RoundKeySet) {n : Nat} (h : n < 16) :
    decryptSubkey keys (Fin.ofNat 16 n) = keys.get (Fin.ofNat 16 (17 - (n + 1) - 1)) := by
  have hidx : 15 - n % 16 = 17 - (n + 1) - 1 := by omega
  rw [decryptSubkey, rev_round, Fin.val_ofNat, hidx]

/-- One run of the body is one round of the model. -/
theorem cipherBody_halvesAfter (keys : RoundKeySet) (block : Block) {n : Nat} (h : n < 16) :
    cipherBody keys (halvesAfter keys block n).toPair (n + 1) = (halvesAfter keys block (n + 1)).toPair := by
  rw [cipherBody, ← decryptSubkey_ofNat keys h]
  rfl

theorem foldl_cipherBody (keys : RoundKeySet) (block : Block) {n : Nat} (h : n ≤ 16) :
    (List.range' 1 n).foldl (cipherBody keys) (initialHalves block).toPair = (halvesAfter keys block n).toPair := by
  induction n with
  | zero => rfl
  | succ n ih =>
    rw [List.range'_1_concat, List.foldl_concat, ih (Nat.le_of_succ_le h), Nat.add_comm 1 n,
      cipherBody_halvesAfter keys block h]

/-- Rules R164, R165: `decryptBlock` joins the pair after sixteen rounds, R before L, through IP⁻¹. -/
theorem decryptBlock_eq_permute_toPair (block : Block) (keys : RoundKeySet) :
    decryptBlock block keys =
      permute ((halvesAfter keys block 16).toPair.2 ++ (halvesAfter keys block 16).toPair.1) ipInv := rfl

/-- Settles O17: the loop's pair after its sixteen rounds is the model's, by `foldl_cipherBody`. -/
theorem decryptBlockIsTheCiphersLoop : Obligations.DecryptBlockIsTheCiphersLoop := by
  unfold Obligations.DecryptBlockIsTheCiphersLoop
  intro block keys
  rw [decryptBlock_eq_permute_toPair, ← foldl_cipherBody keys block (Nat.le_refl 16)]
  rfl

/-! ### The accept step of DECBLK (rules R169, R222) -/

/-- Rule R28: DECBLK is accepted in every idle state. -/
theorem exec_decblk_idle (block : Block) {s : State} (h : s.phase = .idle) :
    exec (.decblk block) s = .next (decblkAccept block s) :=
  acceptWhenIdle_idle (decblkAccept block) h

/-- Rules R71, R73: the code of `NO_KEY` above a zero value. -/
theorem rspWord_noKey : rspWord .noKey 0#64 = 0x020000000000000000#72 := by decide

/-- Rules R222, R228: the answer `NO_KEY` appends its one response word and moves no other field. -/
theorem errorResponse_noKey_eq (s : State) :
    s.errorResponse .noKey = { s with out := s.out ++ [0x020000000000000000#72] } := by
  rw [State.errorResponse, State.respond, rspWord_noKey]

/-- Settles O22: the two states that `decblkAccept` leaves, with and without a key, written out field by field. -/
theorem decblkAcceptStepLoadsTheHalves : Obligations.DecblkAcceptStepLoadsTheHalves := by
  unfold Obligations.DecblkAcceptStepLoadsTheHalves
  intro block s hp
  rw [exec_decblk_idle block hp]
  refine ⟨fun hkv => ?key, fun hkv => ?noKey⟩
  case key => rw [decblkAccept_key block s hkv]; rfl
  case noKey => rw [decblkAccept_noKey block s hkv, errorResponse_noKey_eq]

end Sys2Proof.Machine

/-! The padding check of the last block (`spec/44_padding_policy.md` rules R190 to R193): the two results of
`stripPadding`, each under its condition, and the obligation O49 assembled from them. -/

namespace Sys2Proof.Machine

/-- Rule R192: the pad count is in 1..8 and the last `padCount b` bytes all equal it. -/
def PaddingValid (b : Vector Byte 8) : Prop :=
  1 ≤ padCount b ∧ padCount b ≤ 8 ∧ ∀ k : Fin 8, 8 - padCount b ≤ k.val → (b.get k).toNat = padCount b

/-- The check on the list of trailing bytes, position by position. -/
theorem all_drop_toList_iff (b : Vector Byte 8) (m : Nat) :
    (b.toList.drop m).all (fun x => x == b[7]) = true ↔
      ∀ k : Fin 8, m ≤ k.val → (b.get k).toNat = padCount b := by
  simp only [List.all_eq_true, beq_iff_eq, padCount, BitVec.toNat_inj]
  constructor
  · intro h k hk
    refine h (b.get k) (List.mem_drop_iff_getElem.mpr ⟨k.val - m, ?_, ?_⟩)
    · rw [Vector.length_toList]; omega
    · simp only [Nat.add_sub_cancel' hk, Vector.getElem_toList, Vector.get_eq_getElem]
  · intro h x hx
    obtain ⟨i, hi, rfl⟩ := List.mem_drop_iff_getElem.mp hx
    rw [Vector.length_toList] at hi
    exact h ⟨m + i, by omega⟩ (Nat.le_add_right m i)

/-- Rule R192: a block with valid padding loses its last `padCount b` bytes. -/
theorem stripPadding_of_valid {b : Vector Byte 8} (h : PaddingValid b) :
    stripPadding b = .ok (b.toList.take (8 - padCount b)) := by
  obtain ⟨hpos, hle, hbytes⟩ := h
  have hrange : ¬ (padCount b < 1 ∨ 8 < padCount b) := by omega
  rw [stripPadding, if_neg hrange, if_pos ((all_drop_toList_iff b _).mpr hbytes)]

/-- Rule R193: every other block is refused. -/
theorem stripPadding_of_not_valid {b : Vector Byte 8} (h : ¬ PaddingValid b) :
    stripPadding b = .error .paddingError := by
  rw [stripPadding]
  by_cases hrange : padCount b < 1 ∨ 8 < padCount b
  · rw [if_pos hrange]
  · have hbytes : ¬ (b.toList.drop (8 - padCount b)).all (fun x => x == b[7]) = true :=
      fun hall => h ⟨by omega, by omega, (all_drop_toList_iff b _).mp hall⟩
    rw [if_neg hrange, if_neg hbytes]

theorem stripPadding_eq_ok_iff (b : Vector Byte 8) (out : List Byte) :
    stripPadding b = .ok out ↔ PaddingValid b ∧ out = b.toList.take (8 - padCount b) := by
  by_cases h : PaddingValid b
  · simp [stripPadding_of_valid h, h, eq_comm]
  · simp [stripPadding_of_not_valid h, h]

theorem stripPadding_eq_paddingError_iff (b : Vector Byte 8) :
    stripPadding b = .error .paddingError ↔ ¬ PaddingValid b := by
  by_cases h : PaddingValid b
  · simp [stripPadding_of_valid h, h]
  · simp [stripPadding_of_not_valid h, h]

/-- Rule R193's three ways for the padding to be invalid. -/
theorem not_paddingValid_iff (b : Vector Byte 8) :
    ¬ PaddingValid b ↔ padCount b < 1 ∨ 8 < padCount b ∨
      ∃ k : Fin 8, 8 - padCount b ≤ k.val ∧ (b.get k).toNat ≠ padCount b := by
  simp only [PaddingValid, not_and_or, not_le, not_forall, exists_prop, ne_eq]

/-- Settles O49: `PaddingValid` decides between the two results, and its negation is the disjunction of rule R193. -/
theorem paddingIsStrippedOrRefused : Obligations.PaddingIsStrippedOrRefused := by
  unfold Obligations.PaddingIsStrippedOrRefused
  intro b
  refine ⟨fun out => ?accepted, ?refused⟩
  case accepted =>
    rw [stripPadding_eq_ok_iff, PaddingValid, and_assoc, and_assoc]
    rfl
  case refused => exact (stripPadding_eq_paddingError_iff b).trans (not_paddingValid_iff b)

end Sys2Proof.Machine

/-! The length check of a stream (`spec/45_stream_processor.md` rule R202): what it refuses, that nothing after it answers
`InputFormatError`, and the obligation O50 assembled from them. -/

namespace Sys2Proof.Machine

theorem inputLengthOk_eq_false_iff (input : List Byte) :
    inputLengthOk input = false ↔ input.length = 0 ∨ input.length % 8 ≠ 0 := by
  rw [inputLengthOk, Bool.and_eq_false_iff, bne_eq_false_iff_eq, beq_eq_false_iff_ne]

/-- Rules R204, R205: past the length check a run can fail by its padding only. -/
theorem finishStream_ne_inputFormatError (plain : List Block) :
    finishStream plain ≠ .error .inputFormatError := by
  by_cases h : PaddingValid (bytesOfBlock (plain.getLastD 0#64))
  · rw [finishStream, stripPadding_of_valid h]; simp
  · rw [finishStream, stripPadding_of_not_valid h]; simp

theorem decryptStream_of_badLength (key : Vector Byte 8) {input : List Byte} (h : inputLengthOk input = false) :
    decryptStream key input = .error .inputFormatError := by
  rw [decryptStream, h, if_neg Bool.false_ne_true]

theorem decryptStream_of_lengthOk (key : Vector Byte 8) {input : List Byte} (h : inputLengthOk input = true) :
    decryptStream key input =
      finishStream ((cutBlocks input).map fun c => decryptBlock c (derive (blockOfBytes key))) := by
  rw [decryptStream, if_pos h]

theorem decryptStream_eq_inputFormatError_iff (key : Vector Byte 8) (input : List Byte) :
    decryptStream key input = .error .inputFormatError ↔ inputLengthOk input = false := by
  refine ⟨fun herr => ?_, decryptStream_of_badLength key⟩
  by_contra hok
  rw [decryptStream_of_lengthOk key (eq_true_of_ne_false hok)] at herr
  exact finishStream_ne_inputFormatError _ herr

/-- Rule R202: the driver issues no command for an input of a bad length. -/
theorem driveStream_of_badLength (key : Vector Byte 8) {input : List Byte} (s : State)
    (h : inputLengthOk input = false) : driveStream key input s = (.error .inputFormatError, s) := by
  rw [driveStream, h, if_neg Bool.false_ne_true]

/-- Settles O50: both levels make the check of `inputLengthOk_eq_false_iff` first, and `finishStream` never gives its
error. -/
theorem lengthCheckComesBeforeAnyCommand : Obligations.LengthCheckComesBeforeAnyCommand := by
  unfold Obligations.LengthCheckComesBeforeAnyCommand
  simp only [← inputLengthOk_eq_false_iff]
  exact ⟨decryptStream_eq_inputFormatError_iff, fun key _ s => driveStream_of_badLength key s⟩

end Sys2Proof.Machine

/-! The answer to a reserved opcode (`spec/60_exceptions.md` rule R221), and the obligation O24 assembled from it. -/

namespace Sys2Proof.Machine

/-- Rule R79: a command word put together from a reserved opcode decodes to no instruction. -/
theorem decode_cmdWord_reserved {op : Opcode} (arg : BitVec 64) (h1 : op ≠ opLdkey) (h2 : op ≠ opDecblk) :
    decode (cmdWord op arg) = .error (.reservedOpcode op) := by
  have hop : cmdOp (cmdWord op arg) = op := Laws.RoundTrip.cmdOp_cmdWord op arg
  rw [decode_of_reserved (by rwa [hop]) (by rwa [hop]), hop]

/-- Rule R221: the accept step of a word that decodes to no instruction, whatever the fields of the state are. -/
theorem acceptWord_of_decode_error {w : CmdWord} {e : DecodeError} (h : decode w = .error e) (s : State) :
    acceptWord w s = .next s.illegalOp := by
  rw [acceptWord, h]

/-- Rules R71, R73: the code of `ILLEGAL_OP` above a zero value. -/
theorem rspWord_illegalOp : rspWord .illegalOp 0#64 = 0x010000000000000000#72 := by decide

/-- Rules R221, R228: the answer `ILLEGAL_OP` appends its one response word and moves no other field. -/
theorem illegalOp_eq (s : State) : s.illegalOp = { s with out := s.out ++ [0x010000000000000000#72] } := by
  rw [State.illegalOp, State.errorResponse, State.respond, rspWord_illegalOp]

/-- Settles O24: the idle step accepts the offered word, whose opcode `decode` refuses; `illegalOp` keeps the phase, so
the machine stays ready. -/
theorem reservedOpcodeAnswersIllegalOp : Obligations.ReservedOpcodeAnswersIllegalOp := by
  unfold Obligations.ReservedOpcodeAnswersIllegalOp
  intro op arg s h1 h2 hp hc
  have hd : decode (op ++ arg) = .error (.reservedOpcode op) := decode_cmdWord_reserved arg h1 h2
  have hready : s.hostTake.illegalOp.cmdReady = true := State.cmdReady_iff.mpr hp
  refine ⟨s.hostTake.illegalOp, ?answer, illegalOp_eq s.hostTake, hready⟩
  rw [step_accept hp hc, acceptWord_of_decode_error hd]

end Sys2Proof.Machine

/-! Command words and response words put together from their fields (`spec/30_encoding.md` rules R70 to R73), and the
obligations O1, O3 and O4 assembled from them. -/

namespace Sys2Proof

/-! ### Command words -/

/-- Rule R70: the two fields are the whole of a command word. -/
theorem cmdWord_cmdOp_cmdArg (w : CmdWord) : cmdWord (cmdOp w) (cmdArg w) = w := by
  rw [cmdWord, cmdOp, cmdArg, BitVec.extractLsb'_append_extractLsb'_eq_extractLsb' (Nat.zero_add 64).symm]
  exact BitVec.extractLsb'_eq_self

/-- The word of an instruction decodes to it, whatever its operand is. -/
theorem decode_encode (i : Instr) : decode (encode i) = .ok i := by
  cases i with
  | ldkey key => exact Laws.RoundTrip.ldkey key
  | decblk block => exact Laws.RoundTrip.decblk block

theorem cmdWellFormed_encode (i : Instr) : cmdWellFormed (encode i) = true := by
  cases i with
  | ldkey key => exact Laws.Defined.ldkey key rfl
  | decblk block => exact Laws.Defined.decblk block rfl

theorem cmdWellFormed_iff (w : CmdWord) : cmdWellFormed w = true ↔ cmdOp w = opLdkey ∨ cmdOp w = opDecblk := by
  rw [cmdWellFormed, Bool.or_eq_true, beq_iff_eq, beq_iff_eq]
  rfl

/-- Rule R72: a defined command word is the word of an instruction. -/
theorem exists_encode_of_cmdWellFormed {w : CmdWord} (h : cmdWellFormed w = true) : ∃ i : Instr, w = encode i := by
  obtain hop | hop := (cmdWellFormed_iff w).mp h
  · exact ⟨.ldkey (cmdArg w), by rw [encode, ← hop, cmdWord_cmdOp_cmdArg]⟩
  · exact ⟨.decblk (cmdArg w), by rw [encode, ← hop, cmdWord_cmdOp_cmdArg]⟩

/-- A word that decodes to an instruction has a defined opcode: the reserved ones are refused (rule R74). -/
theorem cmdWellFormed_of_decode {w : CmdWord} {i : Instr} (h : decode w = .ok i) : cmdWellFormed w = true := by
  rw [cmdWellFormed_iff]
  by_contra hop
  rw [not_or] at hop
  rw [decode_of_reserved hop.1 hop.2] at h
  cases h

theorem decode_eq_ok_iff (w : CmdWord) (i : Instr) : decode w = .ok i ↔ w = encode i := by
  constructor
  · intro h
    obtain ⟨j, rfl⟩ := exists_encode_of_cmdWellFormed (cmdWellFormed_of_decode h)
    rw [decode_encode] at h
    rw [Except.ok.inj h]
  · rintro rfl
    exact decode_encode i

theorem wellFormed_eq_true (i : Instr) : i.wellFormed = true := by
  cases i <;> rfl

/-- Settles O3: a word is its two fields, so the opcode decides between the two encodings and a refusal. -/
theorem decodeAndEncodeAgree : Obligations.DecodeAndEncodeAgree := by
  unfold Obligations.DecodeAndEncodeAgree
  intro w
  refine ⟨decode_eq_ok_iff w, ?decodes, ?defined⟩
  case decodes =>
    rintro ⟨i, -, h⟩
    exact cmdWellFormed_of_decode h
  case defined =>
    intro h
    obtain ⟨i, rfl⟩ := exists_encode_of_cmdWellFormed h
    exact ⟨i, wellFormed_eq_true i, decode_encode i⟩

/-- Settles O1: each word is the one the spec puts together from an opcode and an operand, whose decoding is known. -/
theorem writtenWordsDecode : Obligations.WrittenWordsDecode := by
  unfold Obligations.WrittenWordsDecode
  refine ⟨?_, ?_, ?_, ?_, ?_, ?_, ?_⟩
  · exact decode_encode (.ldkey 0x133457799BBCDFF1#64)
  · exact decode_encode (.ldkey 0x0000000000000000#64)
  · exact decode_encode (.decblk 0x85E813540F0AB405#64)
  · exact Machine.decode_cmdWord_reserved (op := 0x00#8) 0x0000000000000000#64 (by decide) (by decide)
  · exact Machine.decode_cmdWord_reserved (op := 0x03#8) 0x133457799BBCDFF1#64 (by decide) (by decide)
  · exact Machine.decode_cmdWord_reserved (op := 0x11#8) 0x0000000000000000#64 (by decide) (by decide)
  · exact Machine.decode_cmdWord_reserved (op := 0xFF#8) 0x0123456789ABCDEF#64 (by decide) (by decide)

/-! ### Response words -/

/-- Rule R71: `st` stands above bit 63 and `val` below it. -/
theorem rspWord_toNat (st : Status) (val : Block) :
    (rspWord st val).toNat = st.code.toNat * 2 ^ 64 + val.toNat := by
  rw [rspWord, BitVec.toNat_append, ← Nat.shiftLeft_add_eq_or_of_lt val.isLt, Nat.shiftLeft_eq]

/-- Rule R73: the three codes are different, so each names its status. -/
theorem ofCode_code (st : Status) : Status.ofCode st.code = some st := by
  cases st <;> decide

/-- Settles O4: the word as a number, and its two fields read back. -/
theorem responseWordHoldsStatusAndValue : Obligations.ResponseWordHoldsStatusAndValue := by
  unfold Obligations.ResponseWordHoldsStatusAndValue
  exact fun st val =>
    ⟨rspWord_toNat st val, Machine.rspSt_rspWord st val, Machine.rspVal_rspWord st val, ofCode_code st⟩

end Sys2Proof

/-! The eight bytes of a 64-bit value, the first the most significant (`spec/20_memory.md` rule R54), and the obligation
O20 assembled from them. -/

namespace Sys2Proof.Machine

/-- Entry `k` of the eight bytes is byte `k`. -/
theorem bytesOfBlock_get (v : BitVec 64) (k : Fin 8) : (bytesOfBlock v).get k = byteOf v k := by
  fin_cases k <;> rfl

/-- Rule R54: byte `k` is bits `63-8k : 56-8k`. -/
theorem byteOf_toNat (v : BitVec 64) (k : Fin 8) : (byteOf v k).toNat = v.toNat / 2 ^ (56 - 8 * k.val) % 2 ^ 8 := by
  rw [byteOf, BitVec.extractLsb'_toNat, Nat.shiftRight_eq_div_pow]

/-- The eight slices of a value, joined one after the other, are slices that grow to the whole of it. -/
@[simp] theorem blockOfBytes_bytesOfBlock (v : BitVec 64) : blockOfBytes (bytesOfBlock v) = v := by
  have join : ∀ start len : Nat,
      v.extractLsb' (start + 8) len ++ v.extractLsb' start 8 = v.extractLsb' start (len + 8) :=
    fun _ _ => BitVec.extractLsb'_append_extractLsb'_eq_extractLsb' rfl
  have h : blockOfBytes (bytesOfBlock v) = v.extractLsb' 56 8 ++ v.extractLsb' 48 8 ++ v.extractLsb' 40 8 ++
      v.extractLsb' 32 8 ++ v.extractLsb' 24 8 ++ v.extractLsb' 16 8 ++ v.extractLsb' 8 8 ++ v.extractLsb' 0 8 := rfl
  rw [h, join 48, join 40, join 32, join 24, join 16, join 8, join 0]
  exact BitVec.extractLsb'_eq_self

/-- Byte `k` of eight bytes put together is the byte `b[k]`. -/
theorem byteOf_blockOfBytes (b : Vector Byte 8) (k : Fin 8) : byteOf (blockOfBytes b) k = b.get k := by
  rw [byteOf, show 56 - 8 * k.val = 8 * (7 - k.val) by omega]
  exact extractLsb'_append8 b.get k

@[simp] theorem bytesOfBlock_blockOfBytes (b : Vector Byte 8) : bytesOfBlock (blockOfBytes b) = b := by
  apply Vector.ext
  intro i hi
  have h := bytesOfBlock_get (blockOfBytes b) ⟨i, hi⟩
  rwa [byteOf_blockOfBytes] at h

/-- Settles O20: the slice as a number, and the two inverses. -/
theorem bytesAndBlocksAreBigEndian : Obligations.BytesAndBlocksAreBigEndian := by
  unfold Obligations.BytesAndBlocksAreBigEndian
  refine ⟨fun v k => ?_, blockOfBytes_bytesOfBlock, bytesOfBlock_blockOfBytes⟩
  rw [bytesOfBlock_get, byteOf_toNat]

end Sys2Proof.Machine

/-! The bit permutations and their six tables (`spec/40_bit_permutation.md`), and the obligations O5 to O8 assembled from
them. -/

namespace Sys2Proof.Machine

/-! ### What `permute` keeps (rule R90) -/

/-- Rule R90: position `i` of the result is the input's position that the table's entry `i` names. -/
theorem pos_permute {w n : Nat} (v : BitVec w) (T : PermTable w n) {i : Nat} (h1 : 1 ≤ i) (hn : i ≤ n) :
    pos (permute v T) i = pos v (T.entries[i - 1]'(by rw [T.length_eq]; omega)) := by
  obtain ⟨hlow, hhigh⟩ := entry_range T (List.getElem_mem (by rw [T.length_eq]; omega : i - 1 < T.entries.length))
  rw [pos_eq_getMsbD _ h1 hn, getMsbD_permute v T (by omega : i - 1 < n), pos_eq_getMsbD v hlow hhigh]

/-- Settles O5: the entry is the one `pos_permute` reads. -/
theorem permuteCopiesTheNamedPosition : Obligations.PermuteCopiesTheNamedPosition := by
  unfold Obligations.PermuteCopiesTheNamedPosition
  intro w n v T i h1 hn
  have hl : i - 1 < T.entries.length := by rw [T.length_eq]; omega
  exact ⟨T.entries[i - 1], List.getElem?_eq_getElem hl, pos_permute v T h1 hn⟩

theorem permute_xor {w n : Nat} (a b : BitVec w) (T : PermTable w n) :
    permute (a ^^^ b) T = permute a T ^^^ permute b T := by
  apply eq_of_getMsbD_lt
  intro i hi
  rw [BitVec.getMsbD_xor, getMsbD_permute _ _ hi, getMsbD_permute _ _ hi, getMsbD_permute _ _ hi, BitVec.getMsbD_xor]

theorem permute_zero {w n : Nat} (T : PermTable w n) : permute 0#w T = 0#n := by
  have h := permute_xor 0#w 0#w T
  rwa [BitVec.xor_self, BitVec.xor_self] at h

/-- All ones is the complement of zero; the complement goes through because every entry is a position (rule R91). -/
theorem permute_allOnes {w n : Nat} (T : PermTable w n) : permute (BitVec.allOnes w) T = BitVec.allOnes n := by
  rw [← BitVec.not_zero, permute_not, permute_zero, BitVec.not_zero]

/-- Settles O6: the exclusive-or bit by bit; zero and all ones follow from it and from the complement. -/
theorem permuteIsLinear : Obligations.PermuteIsLinear := by
  unfold Obligations.PermuteIsLinear
  exact fun w n T => ⟨permute_zero T, permute_allOnes T, fun a b => permute_xor a b T⟩

/-! ### The tables (rules R92 to R97) -/

/-- Settles O7: each sum and each count is a computation on one of the six closed tables. -/
theorem tablesPassTheSpecsChecks : Obligations.TablesPassTheSpecsChecks := by
  unfold Obligations.TablesPassTheSpecsChecks
  refine ⟨?_, ?_, ?_, ?_, ?_, ?_, ?_, ?_, ?_, ?_⟩
  all_goals decide

/-- The table `U` undoes `T`: entry `i` of `T`, looked up at the place entry `i` of `U` names, is `i`. -/
def undoes {w : Nat} (U T : PermTable w w) : Prop :=
  ∀ i : Fin w, T.entries[U.entries[i]'(by rw [U.length_eq]; exact i.isLt) - 1]? = some (i.val + 1)

/-- A table that undoes another one gives every value back. -/
theorem permute_permute_of_undoes {w : Nat} {U T : PermTable w w} (h : undoes U T) (v : BitVec w) :
    permute (permute v T) U = v := by
  apply eq_of_getMsbD_lt
  intro i hi
  have hl : i < U.entries.length := by rw [U.length_eq]; exact hi
  obtain ⟨hlow, hhigh⟩ := entry_range U (List.getElem_mem hl)
  obtain ⟨_, hentry⟩ := List.getElem?_eq_some_iff.mp (h ⟨i, hi⟩)
  rw [getMsbD_permute _ _ hi, getMsbD_permute _ _ (by omega : U.entries[i] - 1 < w)]
  simp only [Fin.getElem_fin] at hentry
  rw [hentry, Nat.add_sub_cancel]

theorem ipInv_undoes_ip : undoes ipInv ip := by
  unfold undoes
  decide

theorem ip_undoes_ipInv : undoes ip ipInv := by
  unfold undoes
  decide

/-- Rule R93: IP⁻¹ after IP. -/
@[simp] theorem permute_ip_ipInv (v : BitVec 64) : permute (permute v ip) ipInv = v :=
  permute_permute_of_undoes ipInv_undoes_ip v

/-- Rule R93: IP after IP⁻¹. -/
@[simp] theorem permute_ipInv_ip (v : BitVec 64) : permute (permute v ipInv) ip = v :=
  permute_permute_of_undoes ip_undoes_ipInv v

/-- Settles O8: the two tables undo each other entry by entry. -/
theorem finalPermutationInvertsTheInitial : Obligations.FinalPermutationInvertsTheInitial := by
  unfold Obligations.FinalPermutationInvertsTheInitial
  exact fun v => ⟨permute_ip_ipInv v, permute_ipInv_ip v⟩

end Sys2Proof.Machine

/-! The rotation as a number (`spec/00_scope.md` rule R8), where each bit of a subkey comes from in the key
(`spec/41_key_schedule.md` rules R111 to R114), and the obligations O9, O12, O13 and O14 assembled from them. -/

namespace Sys2Proof.Machine

/-! ### The rotation as a number (rule R8) -/

/-- A shift to the left within 28 bits drops the bits above position `28 - n`. -/
theorem mul_two_pow_mod (x : Nat) {n : Nat} (h : n ≤ 28) : x * 2 ^ n % 2 ^ 28 = x % 2 ^ (28 - n) * 2 ^ n := by
  rw [← Nat.mul_mod_mul_right, ← Nat.pow_add, Nat.sub_add_cancel h]

/-- The two shifted parts of a rotation do not overlap, so joining them is adding them. -/
theorem rotl28_toNat (x : HalfKey) {n : Nat} (h : n ≤ 28) :
    (rotl28 x n).toNat = x.toNat * 2 ^ n % 2 ^ 28 + x.toNat / 2 ^ (28 - n) := by
  have hlow : x.toNat / 2 ^ (28 - n) < 2 ^ n := by
    rw [Nat.div_lt_iff_lt_mul (Nat.two_pow_pos _), ← Nat.pow_add, Nat.add_sub_cancel' h]
    exact x.isLt
  rw [rotl28, BitVec.toNat_or, BitVec.toNat_shiftLeft, BitVec.toNat_ushiftRight, Nat.shiftRight_eq_div_pow,
    Nat.shiftLeft_eq, mul_two_pow_mod _ h, ← Nat.shiftLeft_eq, Nat.shiftLeft_add_eq_or_of_lt hlow]

/-- Settles O9: the formula holds for every amount up to 28, so for the two that occur. -/
theorem rotationFollowsItsFormula : Obligations.RotationFollowsItsFormula := by
  unfold Obligations.RotationFollowsItsFormula
  intro x n hn
  exact rotl28_toNat x (by omega)

/-! ### The whole schedule (rule R112) -/

theorem shiftTotal_sixteen : shiftTotal 16 = 28 := by decide

/-- A rotation by the whole width. -/
theorem rotateLeft_width28 (x : HalfKey) : x.rotateLeft 28 = x := by
  rw [← BitVec.rotateLeft_mod_eq_rotateLeft, Nat.mod_self, rotateLeft_zero28]

/-- Settles O13: the sixteen amounts add up to the width of a half. -/
theorem fullScheduleRestoresTheHalves : Obligations.FullScheduleRestoresTheHalves := by
  unfold Obligations.FullScheduleRestoresTheHalves
  intro key
  rw [keyHalvesAfter_eq_rotateLeft, shiftTotal_sixteen, rotateLeft_width28, rotateLeft_width28]

/-- Rules R114, R115: entry `r` of the RoundKeySet is selected from the halves after its round. -/
theorem derive_get (key : Key) (r : Round) : (derive key).get r = selectSubkey (keyHalvesAfter key (r.val + 1)) := by
  rw [derive, Vector.get_eq_getElem, Vector.getElem_ofFn]

/-! ### Keys that differ in parity positions only -/

/-- Rule R94: PC-1 names no parity position. -/
theorem pc1_entry_not_parity : ∀ p ∈ pc1.entries, p % 8 ≠ 0 := by decide

theorem permute_pc1_congr {k₁ k₂ : Key} (h : ∀ p, 1 ≤ p → p ≤ 64 → p % 8 ≠ 0 → pos k₁ p = pos k₂ p) :
    permute k₁ pc1 = permute k₂ pc1 := by
  apply eq_of_getMsbD_lt
  intro i hi
  have hmem : pc1.entries[i]'(by rw [pc1.length_eq]; exact hi) ∈ pc1.entries := List.getElem_mem _
  obtain ⟨hlow, hhigh⟩ := entry_range pc1 hmem
  rw [getMsbD_permute _ _ hi, getMsbD_permute _ _ hi, ← pos_eq_getMsbD _ hlow hhigh, ← pos_eq_getMsbD _ hlow hhigh]
  exact h _ hlow hhigh (pc1_entry_not_parity _ hmem)

/-- Rule R110: the key enters the schedule through its initial halves only. -/
theorem derive_congr {k₁ k₂ : Key} (h : initialKeyHalves k₁ = initialKeyHalves k₂) : derive k₁ = derive k₂ := by
  apply RoundKeySet.ext_get
  intro r
  rw [derive_get, derive_get, keyHalvesAfter_eq_rotateLeft, keyHalvesAfter_eq_rotateLeft, h]

/-- Settles O12: PC-1 reads no parity position, and the schedule reads nothing else of the key. -/
theorem parityPositionsDoNotReachTheSubkeys : Obligations.ParityPositionsDoNotReachTheSubkeys := by
  unfold Obligations.ParityPositionsDoNotReachTheSubkeys
  intro k₁ k₂ h
  have hinit : initialKeyHalves k₁ = initialKeyHalves k₂ := by
    rw [initialKeyHalves, initialKeyHalves, permute_pc1_congr h]
  exact ⟨hinit, derive_congr hinit⟩

/-! ### The key position behind each bit of a subkey -/

/-- The place, counted from 0, in `C₀ ‖ D₀` of the bit that the rotations up to a total of `m` bring to place `i` of
`C ‖ D`: each half turns within its own 28 places (rule R113). -/
def unrotatedPlace (m i : Nat) : Nat := if i < 28 then (m + i) % 28 else 28 + (m + (i - 28)) % 28

/-- The key position that entry `e` of PC-2 selects in round `r`. -/
def sourceOfEntry (r : Round) (e : Nat) : Nat := pc1.entries.getD (unrotatedPlace (shiftTotal (r.val + 1)) (e - 1)) 0

/-- The key positions of the 48 bits of round `r`'s subkey, in order. -/
def subkeySources (r : Round) : List Nat := pc2.entries.map (sourceOfEntry r)

theorem getMsbD_initialKeyHalves_C (key : Key) {i : Nat} (h : i < 28) :
    (initialKeyHalves key).C.getMsbD i = (permute key pc1).getMsbD i := by
  have hlt : 28 + 28 - i ≤ 56 := by omega
  have hidx : 56 - (28 + 28 - i) = i := by omega
  simp only [initialKeyHalves, leftHalfKey, BitVec.getMsbD_extractLsb', h, hlt, hidx, decide_true, Bool.true_and]

theorem getMsbD_initialKeyHalves_D (key : Key) {i : Nat} (h : i < 28) :
    (initialKeyHalves key).D.getMsbD i = (permute key pc1).getMsbD (28 + i) := by
  have hlt : 0 + 28 - i ≤ 56 := by omega
  have hidx : 56 - (0 + 28 - i) = 28 + i := by omega
  simp only [initialKeyHalves, rightHalfKey, BitVec.getMsbD_extractLsb', h, hlt, hidx, decide_true, Bool.true_and]

/-- The joined halves after `n` rounds hold PC-1's output at the unrotated place. -/
theorem getMsbD_keyHalvesAfter (key : Key) (n : Nat) {i : Nat} (h : i < 56) :
    ((keyHalvesAfter key n).C ++ (keyHalvesAfter key n).D).getMsbD i =
      (permute key pc1).getMsbD (unrotatedPlace (shiftTotal n) i) := by
  rw [keyHalvesAfter_eq_rotateLeft, BitVec.getMsbD_append, unrotatedPlace]
  have hmod : ∀ m, m % 28 < 28 := fun m => Nat.mod_lt m (by decide)
  by_cases hi : i < 28
  · rw [if_neg (by omega), if_pos hi, BitVec.getMsbD_rotateLeft, decide_eq_true hi, Bool.true_and,
      getMsbD_initialKeyHalves_C key (hmod _)]
  · rw [if_pos (by omega), if_neg hi, BitVec.getMsbD_rotateLeft, decide_eq_true (by omega : i - 28 < 28),
      Bool.true_and, getMsbD_initialKeyHalves_D key (hmod _)]

theorem unrotatedPlace_lt (m i : Nat) : unrotatedPlace m i < 56 := by
  unfold unrotatedPlace
  split <;> omega

/-- Every bit of a subkey is the key's bit at its source. -/
theorem getMsbD_derive_get (key : Key) (r : Round) {i : Nat} (h : i < 48) :
    ((derive key).get r).getMsbD i =
      pos key ((subkeySources r)[i]'(by rw [subkeySources, List.length_map, pc2.length_eq]; exact h)) := by
  have hl : i < pc2.entries.length := by rw [pc2.length_eq]; exact h
  obtain ⟨hlow, hhigh⟩ := entry_range pc2 (List.getElem_mem hl)
  have hplace : unrotatedPlace (shiftTotal (r.val + 1)) (pc2.entries[i] - 1) < pc1.entries.length := by
    rw [pc1.length_eq]; exact unrotatedPlace_lt _ _
  obtain ⟨hlow', hhigh'⟩ := entry_range pc1 (List.getElem_mem hplace)
  rw [derive_get, selectSubkey, getMsbD_permute _ _ h, getMsbD_keyHalvesAfter _ _ (by omega),
    getMsbD_permute _ _ (unrotatedPlace_lt _ _), ← pos_eq_getMsbD _ hlow' hhigh']
  simp only [subkeySources, List.getElem_map, sourceOfEntry, List.getD_eq_getElem _ _ hplace]

/-- A difference at a source of round `r` is a difference of that round's subkeys. -/
theorem derive_get_ne {k₁ k₂ : Key} {p : Nat} {r : Round} (hp : p ∈ subkeySources r) (h : pos k₁ p ≠ pos k₂ p) :
    (derive k₁).get r ≠ (derive k₂).get r := by
  obtain ⟨i, hi, rfl⟩ := List.getElem_of_mem hp
  rw [subkeySources, List.length_map, pc2.length_eq] at hi
  intro heq
  rw [← getMsbD_derive_get k₁ r hi, ← getMsbD_derive_get k₂ r hi, heq] at h
  exact h rfl

/-- Each non-parity position is a source in at least 12 rounds: PC-2 leaves out four places of each half, and the
rotations bring a bit to one of them in at most four rounds. -/
theorem twelve_le_countP_subkeySources :
    ∀ p ∈ List.range' 1 64, p % 8 ≠ 0 → 12 ≤ (List.finRange 16).countP fun r => decide (p ∈ subkeySources r) := by
  decide +kernel

/-- Settles O14: the position is a source in at least 12 rounds, and the subkeys of each of them differ. -/
theorem everyNonParityBitReachesTwelveSubkeys : Obligations.EveryNonParityBitReachesTwelveSubkeys := by
  unfold Obligations.EveryNonParityBitReachesTwelveSubkeys
  intro k₁ k₂ p hlow hhigh hparity hne
  have hmem : p ∈ List.range' 1 64 := List.mem_range'_1.mpr (by omega)
  refine (twelve_le_countP_subkeySources p hmem hparity).trans (List.countP_mono_left fun r _ hr => ?_)
  exact bne_iff_ne.mpr (derive_get_ne (of_decide_eq_true hr) hne)

end Sys2Proof.Machine

/-! The complement through the cipher (`spec/42_feistel_round.md` rule R148, `spec/95_test_vectors.md` section 3.5) and
the network run backwards (`spec/43_block_cipher.md` rule R176); the obligations O16, O18 and O19 assembled from them. -/

namespace Sys2Proof.Machine

/-! ### Complements (rule R148) -/

theorem not_xor_not {w : Nat} (a b : BitVec w) : ~~~a ^^^ ~~~b = a ^^^ b := by
  rw [← BitVec.not_xor_left, ← BitVec.not_xor_right, BitVec.not_not]

/-- Rule R148: the expanded half and the subkey meet in one exclusive-or, where two complements cancel. -/
theorem feistel_not_not (half : HalfBlock) (subkey : Subkey) : feistel (~~~half) (~~~subkey) = feistel half subkey := by
  rw [feistel, feistel, permute_not, not_xor_not]

/-- Settles O16, which is rule R148 itself. -/
theorem roundFunctionIgnoresDoubleComplement : Obligations.RoundFunctionIgnoresDoubleComplement := by
  unfold Obligations.RoundFunctionIgnoresDoubleComplement
  exact feistel_not_not

/-- A slice inside a value takes a complement through. -/
theorem extractLsb'_not {w start len : Nat} (v : BitVec w) (h : start + len ≤ w) :
    (~~~v).extractLsb' start len = ~~~v.extractLsb' start len := by
  ext i hi
  have hlt : start + i < w := by omega
  simp [BitVec.getElem_extractLsb', hlt]

/-- Both halves complemented. -/
def Halves.compl (lr : Halves) : Halves := ⟨~~~lr.L, ~~~lr.R⟩

/-- Both key halves complemented. -/
def KeyHalves.compl (cd : KeyHalves) : KeyHalves := ⟨~~~cd.C, ~~~cd.D⟩

theorem initialKeyHalves_not (key : Key) : initialKeyHalves (~~~key) = (initialKeyHalves key).compl := by
  simp only [initialKeyHalves, KeyHalves.compl, permute_not, leftHalfKey, rightHalfKey,
    extractLsb'_not _ (by decide : 28 + 28 ≤ 56), extractLsb'_not _ (by decide : 0 + 28 ≤ 56)]

theorem rotateLeft_not28 (x : HalfKey) (n : Nat) : (~~~x).rotateLeft n = ~~~x.rotateLeft n := by
  apply eq_of_getMsbD_lt
  intro i hi
  have hmod : (n + i) % 28 < 28 := Nat.mod_lt _ (by decide)
  simp [BitVec.getMsbD_rotateLeft, BitVec.getMsbD_not, hi, hmod]

theorem keyHalvesAfter_not (key : Key) (n : Nat) : keyHalvesAfter (~~~key) n = (keyHalvesAfter key n).compl := by
  simp only [keyHalvesAfter_eq_rotateLeft, initialKeyHalves_not, KeyHalves.compl, rotateLeft_not28]

/-- Complementing a key complements each of its subkeys. -/
theorem derive_get_not (key : Key) (r : Round) : (derive (~~~key)).get r = ~~~(derive key).get r := by
  rw [derive_get, derive_get, keyHalvesAfter_not, KeyHalves.compl, selectSubkey, selectSubkey, ← BitVec.not_append,
    permute_not]

theorem initialHalves_not (block : Block) : initialHalves (~~~block) = (initialHalves block).compl := by
  simp only [initialHalves, Halves.compl, permute_not, leftHalf, rightHalf,
    extractLsb'_not _ (by decide : 32 + 32 ≤ 64), extractLsb'_not _ (by decide : 0 + 32 ≤ 64)]

/-- One round takes complements of the subkey and of both halves to the complement of both halves. -/
theorem feistelStep_compl (k : Subkey) (lr : Halves) : feistelStep (~~~k) lr.compl = (feistelStep k lr).compl := by
  simp only [feistelStep, Halves.compl, feistel_not_not, ← BitVec.not_xor_left]

theorem halvesAfter_not (key : Key) (block : Block) (n : Nat) :
    halvesAfter (derive (~~~key)) (~~~block) n = (halvesAfter (derive key) block n).compl := by
  induction n with
  | zero => exact initialHalves_not block
  | succ n ih => rw [halvesAfter, halvesAfter, ih, decryptSubkey, decryptSubkey, derive_get_not, feistelStep_compl]

theorem finalBlock_compl (lr : Halves) : finalBlock lr.compl = ~~~finalBlock lr := by
  rw [finalBlock, finalBlock, Halves.compl, ← BitVec.not_append, permute_not]

/-- Settles O19: the complement is carried through the key schedule and, by `feistelStep_compl`, through every round. -/
theorem complementingKeyAndBlockComplementsThePlaintext :
    Obligations.ComplementingKeyAndBlockComplementsThePlaintext := by
  unfold Obligations.ComplementingKeyAndBlockComplementsThePlaintext
  intro key block
  rw [decryptBlock, decryptBlock, halvesAfter_not, finalBlock_compl]

/-! ### The network run backwards (rule R176) -/

@[simp] theorem Halves.swap_swap (lr : Halves) : lr.swap.swap = lr := rfl

/-- The initial permutation meets the final one: a finished block gives its halves back, exchanged. -/
theorem initialHalves_finalBlock (lr : Halves) : initialHalves (finalBlock lr) = lr.swap := by
  simp only [initialHalves, finalBlock, permute_ipInv_ip, leftHalf, rightHalf, extractLsb'_append_left,
    extractLsb'_append_right, Halves.swap]

/-- Rule R161: the two halves of a 64-bit value are the whole of it. -/
theorem leftHalf_append_rightHalf (v : BitVec 64) : leftHalf v ++ rightHalf v = v := by
  rw [leftHalf, rightHalf, BitVec.extractLsb'_append_extractLsb'_eq_extractLsb' (Nat.zero_add 32).symm]
  exact BitVec.extractLsb'_eq_self

theorem finalBlock_swap_initialHalves (block : Block) : finalBlock (initialHalves block).swap = block := by
  rw [finalBlock, initialHalves, Halves.swap, leftHalf_append_rightHalf, permute_ip_ipInv]

/-- Two runs of `n` rounds, the second from the first one's result with the halves exchanged and with the subkeys in
reverse order, go through the same halves backwards. -/
theorem rounds_reversed {n : Nat} {k : Nat → Subkey} {a b : Nat → Halves}
    (ha : ∀ i < n, a (i + 1) = feistelStep (k i) (a i))
    (hb : ∀ i < n, b (i + 1) = feistelStep (k (n - 1 - i)) (b i))
    (h0 : b 0 = (a n).swap) : ∀ i ≤ n, b i = (a (n - i)).swap := by
  intro i
  induction i with
  | zero => exact fun _ => h0
  | succ i ih =>
    intro hi
    have hpred : n - i = n - (i + 1) + 1 := by omega
    have hkey : n - 1 - i = n - (i + 1) := by omega
    rw [hb i (by omega), ih (by omega), hpred, ha _ (by omega), hkey, feistelStep_swap]

theorem encryptHalvesAfter_succ (keys : RoundKeySet) (block : Block) (n : Nat) :
    encryptHalvesAfter keys block (n + 1) = feistelStep (keys.get (Fin.ofNat 16 n)) (encryptHalvesAfter keys block n) :=
  rfl

/-- Rule R163: round `n + 1` of a decryption uses the subkey of encryption round `16 - n`. -/
theorem halvesAfter_succ (keys : RoundKeySet) (block : Block) {n : Nat} (h : n < 16) :
    halvesAfter keys block (n + 1) =
      feistelStep (keys.get (Fin.ofNat 16 (16 - 1 - n))) (halvesAfter keys block n) := by
  rw [halvesAfter, decryptSubkey_ofNat keys h, show 17 - (n + 1) - 1 = 16 - 1 - n by omega]

theorem decryptBlock_encryptBlock (keys : RoundKeySet) (p : Block) : decryptBlock (encryptBlock p keys) keys = p := by
  have h : halvesAfter keys (encryptBlock p keys) 16 = (encryptHalvesAfter keys p (16 - 16)).swap :=
    rounds_reversed (n := 16) (k := fun i => keys.get (Fin.ofNat 16 i))
      (fun i _ => encryptHalvesAfter_succ keys p i) (fun _ hi => halvesAfter_succ keys _ hi)
      (initialHalves_finalBlock _) 16 (Nat.le_refl 16)
  rw [decryptBlock, h]
  exact finalBlock_swap_initialHalves p

theorem encryptBlock_decryptBlock (keys : RoundKeySet) (p : Block) : encryptBlock (decryptBlock p keys) keys = p := by
  have hkey : ∀ i < 16, 16 - 1 - (16 - 1 - i) = i := by omega
  have h : encryptHalvesAfter keys (decryptBlock p keys) 16 = (halvesAfter keys p (16 - 16)).swap :=
    rounds_reversed (n := 16) (k := fun i => keys.get (Fin.ofNat 16 (16 - 1 - i)))
      (fun _ hi => halvesAfter_succ keys p hi)
      (fun i hi => by rw [hkey i hi, encryptHalvesAfter_succ])
      (initialHalves_finalBlock _) 16 (Nat.le_refl 16)
  rw [encryptBlock, h]
  exact finalBlock_swap_initialHalves p

/-- Settles O18: `rounds_reversed` once with the subkeys forward and once with them backward. -/
theorem decryptionInvertsEncryption : Obligations.DecryptionInvertsEncryption := by
  unfold Obligations.DecryptionInvertsEncryption
  exact fun keys p => ⟨decryptBlock_encryptBlock keys p, encryptBlock_decryptBlock keys p⟩

end Sys2Proof.Machine

/-! What the accept steps and the rounds make of each field, said once (`spec/41_key_schedule.md` section 3,
`spec/43_block_cipher.md` section 2). -/

namespace Sys2Proof.Machine

variable (key : Key) (block : Block) (r : Round) (s : State)

/-! ### The accept step of LDKEY (rule R121) -/

@[simp] theorem ldkeyAccept_C : (ldkeyAccept key s).C = (initialKeyHalves key).C := rfl
@[simp] theorem ldkeyAccept_D : (ldkeyAccept key s).D = (initialKeyHalves key).D := rfl
@[simp] theorem ldkeyAccept_rc : (ldkeyAccept key s).rc = 0#5 := rfl
@[simp] theorem ldkeyAccept_kv : (ldkeyAccept key s).kv = false := rfl
@[simp] theorem ldkeyAccept_RK : (ldkeyAccept key s).RK = s.RK := rfl
@[simp] theorem ldkeyAccept_L : (ldkeyAccept key s).L = s.L := rfl
@[simp] theorem ldkeyAccept_R : (ldkeyAccept key s).R = s.R := rfl
@[simp] theorem ldkeyAccept_out : (ldkeyAccept key s).out = s.out := rfl
@[simp] theorem ldkeyAccept_draws : (ldkeyAccept key s).draws = s.draws := rfl
@[simp] theorem ldkeyAccept_host : (ldkeyAccept key s).host = s.host := rfl

/-! ### The accept step of DECBLK, with a key or without one (rules R169, R222) -/

/-- The accept step of DECBLK, field by field. -/
theorem decblkAccept_eq : decblkAccept block s = { s with
    L := if s.kv then (initialHalves block).L else s.L
    R := if s.kv then (initialHalves block).R else s.R
    rc := if s.kv then 0#5 else s.rc
    phase := if s.kv then .rnd else s.phase
    out := if s.kv then s.out else s.out ++ [rspWord .noKey 0#64] } := by
  cases hkv : s.kv with
  | true => simp [decblkAccept_key block s hkv, hkv]
  | false => simp [decblkAccept_noKey block s hkv, State.errorResponse, State.respond, hkv]

@[simp] theorem decblkAccept_RK : (decblkAccept block s).RK = s.RK := by rw [decblkAccept_eq]
@[simp] theorem decblkAccept_C : (decblkAccept block s).C = s.C := by rw [decblkAccept_eq]
@[simp] theorem decblkAccept_D : (decblkAccept block s).D = s.D := by rw [decblkAccept_eq]
@[simp] theorem decblkAccept_host : (decblkAccept block s).host = s.host := by rw [decblkAccept_eq]
@[simp] theorem decblkAccept_draws : (decblkAccept block s).draws = s.draws := by rw [decblkAccept_eq]

/-! ### A KS step (rule R122) -/

@[simp] theorem ksRound_C : (ksRound r s).C = rotl28 s.C (shift r) := by rw [ksRound_eq]
@[simp] theorem ksRound_D : (ksRound r s).D = rotl28 s.D (shift r) := by rw [ksRound_eq]
@[simp] theorem ksRound_rc : (ksRound r s).rc = BitVec.ofNat 5 (r.val + 1) := by rw [ksRound_eq]
@[simp] theorem ksRound_kv : (ksRound r s).kv = if r.val = 15 then true else s.kv := by rw [ksRound_eq]
@[simp] theorem ksRound_L : (ksRound r s).L = s.L := by rw [ksRound_eq]
@[simp] theorem ksRound_R : (ksRound r s).R = s.R := by rw [ksRound_eq]
@[simp] theorem ksRound_draws : (ksRound r s).draws = s.draws := by rw [ksRound_eq]
@[simp] theorem ksRound_host : (ksRound r s).host = s.host := by rw [ksRound_eq]

theorem ksRound_keyHalves : (ksRound r s).keyHalves = rotateKeyHalves r s.keyHalves := by rw [ksRound_eq]; rfl

theorem ksRound_out : (ksRound r s).out = if r.val = 15 then s.out ++ [rspWord .ok 0#64] else s.out := by
  rw [ksRound_eq]; rfl

/-- Entry `r` of `RK` is selected from the new halves, every other one stays. -/
theorem ksRound_RK_get (q : Round) :
    (ksRound r s).RK.get q = if q = r then selectSubkey (rotateKeyHalves r s.keyHalves) else s.RK.get q := by
  rw [ksRound_eq]
  exact RoundKeySet.get_set s.RK r q _

/-! ### An RND step (rule R170) and the FIN step (rule R171) -/

@[simp] theorem rndRound_rc : (rndRound r s).rc = BitVec.ofNat 5 (r.val + 1) := by rw [rndRound_eq]
@[simp] theorem rndRound_kv : (rndRound r s).kv = s.kv := by rw [rndRound_eq]
@[simp] theorem rndRound_C : (rndRound r s).C = s.C := by rw [rndRound_eq]
@[simp] theorem rndRound_D : (rndRound r s).D = s.D := by rw [rndRound_eq]
@[simp] theorem rndRound_RK : (rndRound r s).RK = s.RK := by rw [rndRound_eq]
@[simp] theorem rndRound_out : (rndRound r s).out = s.out := by rw [rndRound_eq]
@[simp] theorem rndRound_draws : (rndRound r s).draws = s.draws := by rw [rndRound_eq]
@[simp] theorem rndRound_host : (rndRound r s).host = s.host := by rw [rndRound_eq]

theorem rndRound_halves : (rndRound r s).halves = feistelStep (decryptSubkey s.RK r) s.halves := by
  rw [rndRound_eq, decryptSubkey, rev_round]; rfl

@[simp] theorem finRound_rc : (finRound s).rc = s.rc := rfl
@[simp] theorem finRound_kv : (finRound s).kv = s.kv := rfl
@[simp] theorem finRound_C : (finRound s).C = s.C := rfl
@[simp] theorem finRound_D : (finRound s).D = s.D := rfl
@[simp] theorem finRound_RK : (finRound s).RK = s.RK := rfl
@[simp] theorem finRound_L : (finRound s).L = s.L := rfl
@[simp] theorem finRound_R : (finRound s).R = s.R := rfl
@[simp] theorem finRound_draws : (finRound s).draws = s.draws := rfl
@[simp] theorem finRound_host : (finRound s).host = s.host := rfl
@[simp] theorem finRound_out : (finRound s).out = s.out ++ [rspWord .ok (finalBlock s.halves)] := rfl

end Sys2Proof.Machine

/-! Statements about one step (`spec/10_state.md`, `spec/41_key_schedule.md` section 3, `spec/43_block_cipher.md` section
2, `spec/70_reset_and_hazards.md`), each from `step_cases` or from the step lemma of its case: the obligations O23, O25,
O27 to O34, O36 and O37. -/

namespace Sys2Proof.Machine

variable {s t : State}

/-! ### Accept steps -/

/-- Rule R28: what an instruction can do, busy or idle. -/
theorem exec_ldkey_cases {key : Key} (h : exec (.ldkey key) s = .next t) : t = s ∨ t = ldkeyAccept key s := by
  by_cases hp : s.phase = .idle
  · rw [exec_ldkey_idle key hp] at h
    exact .inr (Host.Outcome.next.inj h).symm
  · rw [show exec (.ldkey key) s = .next s from acceptWhenIdle_busy _ hp] at h
    exact .inl (Host.Outcome.next.inj h).symm

theorem exec_decblk_cases {block : Block} (h : exec (.decblk block) s = .next t) : t = s ∨ t = decblkAccept block s := by
  by_cases hp : s.phase = .idle
  · rw [exec_decblk_idle block hp] at h
    exact .inr (Host.Outcome.next.inj h).symm
  · rw [show exec (.decblk block) s = .next s from acceptWhenIdle_busy _ hp] at h
    exact .inl (Host.Outcome.next.inj h).symm

/-- Settles O25: busy, nothing changes; idle, the frame of each accept step, the one of DECBLK by the value of `kv`. -/
theorem acceptStepsLeaveTheRestUnchanged : Obligations.AcceptStepsLeaveTheRestUnchanged := by
  unfold Obligations.AcceptStepsLeaveTheRestUnchanged
  refine ⟨fun key s t h => ?ldkey, fun block s t h => ?decblk⟩
  case ldkey =>
    obtain rfl | rfl := exec_ldkey_cases h <;> simp
  case decblk =>
    obtain rfl | rfl := exec_decblk_cases h
    · simp
    · refine ⟨?_, decblkAccept_kv block s, ?_, ?_, ?_, ?_, fun hkv => ?key, fun hkv => ?noKey⟩
      case key => rw [decblkAccept_key block s hkv]
      case noKey => simp [decblkAccept_noKey block s hkv]
      all_goals simp

/-- Rule R26: what a step makes of `kv`: reset and an accepted LDKEY clear it, the sixteenth KS step sets it, and every
other step keeps it. -/
theorem kv_after_step (h : step s = .next t) :
    t.kv = s.kv ∨ (s.rstPort = true ∧ t.kv = false) ∨
    (s.phase = .idle ∧ (∃ w key, s.cmdPort = some w ∧ decode w = .ok (.ldkey key)) ∧ t.kv = false) ∨
    (s.rstPort = false ∧ s.phase = .ks ∧ s.rc = 15#5 ∧ t.kv = true) := by
  obtain ⟨hr, rfl⟩ | ⟨-, -, -, rfl⟩ | ⟨w, key, -, hp, hc, hd, rfl⟩ | ⟨w, block, -, -, -, -, rfl⟩ |
    ⟨w, e, -, -, -, -, rfl⟩ | ⟨r, hr, hp, hn, rfl⟩ | ⟨r, -, -, -, rfl⟩ | ⟨-, -, rfl⟩ := step_cases h
  · exact .inr (.inl ⟨hr, rfl⟩)
  · exact .inl rfl
  · exact .inr (.inr (.inl ⟨hp, ⟨w, key, hc, hd⟩, rfl⟩))
  · exact .inl (decblkAccept_kv block _)
  · exact .inl rfl
  · by_cases hlast : r.val = 15
    · exact .inr (.inr (.inr ⟨hr, hp, (lastRound_iff_rc hn).mp hlast, by rw [ksRound_kv, if_pos hlast]⟩))
    · exact .inl (by rw [ksRound_kv, if_neg hlast, State.hostTick_kv])
  · exact .inl (rndRound_kv r _)
  · exact .inl rfl

/-- Settles O23: the answer `NO_KEY`, and `kv_after_step`. -/
theorem decblkWithoutAKeyAnswersNoKey : Obligations.DecblkWithoutAKeyAnswersNoKey := by
  unfold Obligations.DecblkWithoutAKeyAnswersNoKey
  refine ⟨fun block s hp hkv => ?answer, fun s t hr h => ?reset, fun s t h hkv hkv' => ?setting⟩
  case answer => rw [exec_decblk_idle block hp, decblkAccept_noKey block s hkv, errorResponse_noKey_eq]
  case reset =>
    rw [step_reset hr] at h
    rw [← Host.Outcome.next.inj h, State.resetStep_kv]
  case setting =>
    obtain hkeep | ⟨-, hclear⟩ | ⟨-, -, hclear⟩ | ⟨hr, hp, hrc, -⟩ := kv_after_step h
    · simp [hkeep, hkv] at hkv'
    · simp [hclear] at hkv'
    · simp [hclear] at hkv'
    · exact ⟨hr, hp, hrc⟩

/-! ### The fetch -/

/-- Rule R79: an idle step on an offered word that decodes to `i` is `exec i`. -/
theorem step_of_decode {w : CmdWord} {i : Instr} (hp : s.phase = .idle) (hc : s.cmdPort = some w)
    (hd : decode w = .ok i) : step s = exec i s.hostTake := by
  rw [step_accept hp hc, acceptWord, hd]

/-- Settles O27: a placed table word is an offered command word, taken by the next step. -/
theorem stepRunsTheDecodedInstruction : Obligations.StepRunsTheDecodedInstruction := by
  unfold Obligations.StepRunsTheDecodedInstruction
  refine ⟨fun s w i hp hc hd => step_of_decode hp hc hd, fun s i => ?_⟩
  have hword : BitVec.ofNat 72 ((encode i).toNat % 2 ^ 72) = encode i := by
    rw [Nat.mod_eq_of_lt (encode i).isLt, BitVec.ofNat_toNat, BitVec.setWidth_eq]
  rw [State.withFetchWord, hword, step_of_decode (State.placeCommand_phase s _) rfl (decode_encode i)]
  rfl

/-! ### Advance steps -/

/-- Settles O28: the fields of `ksRound`. -/
theorem ksStepRunsOneScheduleRound : Obligations.KsStepRunsOneScheduleRound := by
  unfold Obligations.KsStepRunsOneScheduleRound
  intro s r hr hp hn
  refine ⟨ksRound r s.hostTick, step_ks hr hp hn, ksRound_C r _, ksRound_D r _, ?written, fun q hq => ?kept, ?count,
    ksRound_L r _, ksRound_R r _, ksRound_draws r _, fun hlast => ?last, fun hne => ?notLast⟩
  case written => rw [ksRound_RK_get, if_pos rfl]; rfl
  case kept => rw [ksRound_RK_get, if_neg hq, State.hostTick_RK]
  case count => rw [ksRound_rc, countRound_toNat]
  case last => simp [ksRound_eq, hlast]
  case notLast => simp [ksRound_eq, hne, hp]

/-- Settles O29: `rndRound` field by field. -/
theorem rndStepRunsOneFeistelRound : Obligations.RndStepRunsOneFeistelRound := by
  unfold Obligations.RndStepRunsOneFeistelRound
  intro s r hr hp hn
  rw [step_rnd hr hp hn, rndRound_eq, State.hostTick_phase, hp]
  rfl

/-- Settles O30: `finRound` is written out as the statement has it. -/
theorem finStepDeliversThePlaintext : Obligations.FinStepDeliversThePlaintext := by
  unfold Obligations.FinStepDeliversThePlaintext
  intro s hr hp
  rw [step_fin hr hp]
  rfl

/-! ### Reset -/

/-- Rules R122, R171: a busy step without reset ends in IDLE only by answering its command. -/
theorem out_of_busy_step_to_idle (h : step s = .next t) (hr : s.rstPort = false) (hp : s.phase ≠ .idle)
    (hidle : t.phase = .idle) : ∃ val : Block, t.out = s.out ++ [rspWord .ok val] := by
  obtain ⟨hr', -⟩ | ⟨-, hp', -, -⟩ | ⟨w, key, -, hp', -, -, -⟩ | ⟨w, block, -, hp', -, -, -⟩ |
    ⟨w, e, -, hp', -, -, -⟩ | ⟨r, -, hks, -, rfl⟩ | ⟨r, -, hrnd, -, rfl⟩ | ⟨-, -, rfl⟩ := step_cases h
  · rw [hr] at hr'; cases hr'
  · exact absurd hp' hp
  · exact absurd hp' hp
  · exact absurd hp' hp
  · exact absurd hp' hp
  · have hlast : r.val = 15 := by
      by_contra hne
      simp [ksRound_eq, hne, hks] at hidle
    exact ⟨0#64, by rw [ksRound_out, if_pos hlast, State.hostTick_out]⟩
  · by_cases hlast : r.val = 15 <;> simp [rndRound_eq, hlast, hrnd] at hidle
  · exact ⟨finalBlock s.halves, rfl⟩

/-- Settles O31: the reset step writes the control state; `kv` is cleared as `kv_after_step` says, and the way back to
IDLE is `out_of_busy_step_to_idle`. -/
theorem resetStepClearsTheControlState : Obligations.ResetStepClearsTheControlState := by
  unfold Obligations.ResetStepClearsTheControlState
  refine ⟨fun s hr => ⟨_, step_reset hr, rfl, rfl, rfl, rfl, rfl⟩, fun s t h hkv hkv' => ?clearing,
    fun s t h hr hp hidle => out_of_busy_step_to_idle h hr hp hidle⟩
  obtain hkeep | ⟨hr, -⟩ | ⟨hp, ⟨w, key, hc, hd⟩, -⟩ | ⟨-, -, -, hset⟩ := kv_after_step h
  · simp [hkeep, hkv] at hkv'
  · exact .inl hr
  · exact .inr ⟨hp, w, key, hc, hd⟩
  · simp [hset] at hkv'

/-- A step that answers a reset leaves the state of rule R250. -/
theorem eq_resetStep (hr : s.rstPort = true) (h : step s = .next t) : t = s.hostTake.resetStep := by
  rw [step_reset hr] at h
  exact (Host.Outcome.next.inj h).symm

/-- Settles O32: the launch state as it is written; after a reset step the trace is empty, so it is no longer than it
was and the response port delivers nothing. -/
theorem stateAfterResetIsAsStated : Obligations.StateAfterResetIsAsStated := by
  unfold Obligations.StateAfterResetIsAsStated
  refine ⟨fun dp => ⟨rfl, rfl, rfl, rfl, rfl, rfl, rfl⟩, ⟨zeroDatapath, rfl⟩, fun s t hr h => ?_⟩
  obtain rfl := eq_resetStep hr h
  refine ⟨rfl, rfl, ?_⟩
  rw [rspPort, State.resetStep_out, if_neg (by simp)]

/-- Past the end of the host's list an idle step changes nothing (rule R263). -/
theorem step_idle_of_host_nil (hp : s.phase = .idle) (hh : s.host = []) : step s = .next s := by
  have hr : s.rstPort = false := by rw [State.rstPort_eq_head, hh]; rfl
  have hc : s.cmdPort = none := by rw [State.cmdPort, hh]
  have htick : s.hostTick = s := by rw [State.hostTick, hh, hostAfterTick, ← hh]
  rw [step_idle hr hp hc, htick]

theorem runSteps_idle_of_host_nil (hp : s.phase = .idle) (hh : s.host = []) (k : Nat) : runSteps k s = .next s := by
  induction k with
  | zero => rfl
  | succ k ih => rw [runSteps_succ (step_idle_of_host_nil hp hh), ih]

/-- Settles O34: one step that changes nothing, any number of times. -/
theorem idleMachineStaysPut : Obligations.IdleMachineStaysPut := by
  unfold Obligations.IdleMachineStaysPut
  exact fun s hp hh k => runSteps_idle_of_host_nil hp hh k

/-- Settles O33: after a reset the machine is idle, without a key and with an empty trace, and stays so. -/
theorem resetAbandonsTheOperation : Obligations.ResetAbandonsTheOperation := by
  unfold Obligations.ResetAbandonsTheOperation
  intro s t hr h
  obtain rfl := eq_resetStep hr h
  refine ⟨fun block => ⟨_, exec_decblk_idle block rfl, ?_⟩, fun hh k => ⟨_, runSteps_idle_of_host_nil rfl hh k, rfl⟩⟩
  rw [decblkAccept_noKey block _ rfl, errorResponse_noKey_eq]
  rfl

/-! ### Which steps write a register -/

/-- Settles O36: in each case of `step_cases` either the step is one the clause names or the register is as it was. -/
theorem onlyTheNamedStepsWriteARegister : Obligations.OnlyTheNamedStepsWriteARegister := by
  unfold Obligations.OnlyTheNamedStepsWriteARegister
  intro s t h hr
  obtain ⟨hr', rfl⟩ | ⟨-, hp, hc, rfl⟩ | ⟨w, key, -, hp, hc, hd, rfl⟩ | ⟨w, block, -, hp, hc, hd, rfl⟩ |
    ⟨w, e, -, hp, hc, hd, rfl⟩ | ⟨r, -, hp, hn, rfl⟩ | ⟨r, -, hp, hn, rfl⟩ | ⟨-, hp, rfl⟩ := step_cases h
  · rw [hr] at hr'; cases hr'
  · simp
  · simp [hp, hc, hd]
  · cases hkv : s.kv with
    | true => simp [hp, hc, hd, decblkAccept_phase, hkv]
    | false => simp [decblkAccept_noKey block s.hostTake hkv]
  · simp
  · simp [hp]
  · simp [hp]
  · simp

/-! ### The response port -/

/-- A step that leaves the trace as it was delivers nothing. -/
theorem rspPort_of_out_eq (h : t.out = s.out) : rspPort s t = none := by
  rw [rspPort, h, if_neg (Nat.ne_of_lt (Nat.lt_succ_self _))]

/-- A step that appends a response delivers it. -/
theorem rspPort_of_out_append {w : RspWord} (h : t.out = s.out ++ [w]) : rspPort s t = some w := by
  rw [rspPort, h, if_pos (by simp), List.getLast?_concat]

/-- A silent step meets the two clauses when it is none of those that answer. -/
theorem responses_of_out_eq {answers : Prop} (h : t.out = s.out) (hn : ¬ answers) :
    t.out = s.out ++ (rspPort s t).toList ∧ ((rspPort s t).isSome = true ↔ answers) := by
  simp [rspPort_of_out_eq h, h, hn]

/-- An answering step meets the two clauses when it is one of those that answer. -/
theorem responses_of_out_append {answers : Prop} {w : RspWord} (h : t.out = s.out ++ [w]) (ha : answers) :
    t.out = s.out ++ (rspPort s t).toList ∧ ((rspPort s t).isSome = true ↔ answers) := by
  simp [rspPort_of_out_append h, h, ha]

/-- Settles O37: each case of `step_cases` is silent or answers; a KS step by its round, a DECBLK by `kv`. -/
theorem responsesComeOneAtATime : Obligations.ResponsesComeOneAtATime := by
  unfold Obligations.ResponsesComeOneAtATime
  intro s t h hr
  obtain ⟨hr', rfl⟩ | ⟨-, hp, hc, rfl⟩ | ⟨w, key, -, hp, hc, hd, rfl⟩ | ⟨w, block, -, hp, hc, hd, rfl⟩ |
    ⟨w, e, -, hp, hc, hd, rfl⟩ | ⟨r, -, hp, hn, rfl⟩ | ⟨r, -, hp, hn, rfl⟩ | ⟨-, hp, rfl⟩ := step_cases h
  · rw [hr] at hr'; cases hr'
  · exact responses_of_out_eq rfl (by simp [hp, hc])
  · exact responses_of_out_eq rfl (by simp [hp, hc, hd])
  · cases hkv : s.kv with
    | true => exact responses_of_out_eq (by simp [decblkAccept_key, hkv]) (by simp [hp, hc, hd])
    | false => exact responses_of_out_append (by rw [decblkAccept_noKey block s.hostTake hkv]; rfl) (by simp [hp, hc, hd])
  · exact responses_of_out_append rfl (by simp [hp, hc, hd])
  · have hlast := lastRound_iff_rc hn
    by_cases hr15 : r.val = 15
    · exact responses_of_out_append (by rw [ksRound_out, if_pos hr15]; rfl) (by simp [hp, hlast.mp hr15])
    · exact responses_of_out_eq (by rw [ksRound_out, if_neg hr15]; rfl) (by simp [hp, mt hlast.mpr hr15])
  · exact responses_of_out_eq (by simp) (by simp [hp])
  · exact responses_of_out_append rfl (by simp [hp])

end Sys2Proof.Machine

/-! The invariant of reachable states (`spec/10_state.md` rule R37): it holds after reset, every step keeps it, and it
rules out a stuck sequencer; the obligations O38, O39 and O40 assembled from that. -/

namespace Sys2Proof.Machine

variable {s t : State}

/-! ### The invariant by the phase -/

theorem inv_idle_iff (hp : s.phase = .idle) : s.Inv ↔ s.traceWf ∧ idleInv s := by rw [State.Inv, hp]
theorem inv_ks_iff (hp : s.phase = .ks) : s.Inv ↔ s.traceWf ∧ ksInv s := by rw [State.Inv, hp]
theorem inv_rnd_iff (hp : s.phase = .rnd) : s.Inv ↔ s.traceWf ∧ rndInv s := by rw [State.Inv, hp]
theorem inv_fin_iff (hp : s.phase = .fin) : s.Inv ↔ s.traceWf ∧ finInv s := by rw [State.Inv, hp]

theorem launch_inv (dp : Datapath) : (State.launch dp).Inv :=
  (inv_idle_iff (State.launch_phase dp)).mpr ⟨fun _ hw => absurd hw List.not_mem_nil, .inl ⟨rfl, rfl⟩⟩

/-- Settles O38: the launch state is idle, with `rc = 0`, no key and no response; the datapath plays no part. -/
theorem resetMeetsTheInvariant : Obligations.ResetMeetsTheInvariant := by
  unfold Obligations.ResetMeetsTheInvariant
  exact ⟨launch_inv, launch_inv zeroDatapath⟩

/-! ### The trace -/

theorem traceWf_of_out_eq (hs : s.traceWf) (h : t.out = s.out) : t.traceWf := by rwa [State.traceWf, h]

theorem traceWf_of_out_append {w : RspWord} (hs : s.traceWf) (h : t.out = s.out ++ [w]) (hw : rspWellFormed w = true) :
    t.traceWf := by
  rw [State.traceWf, h]
  intro v hv
  obtain hv | hv := List.mem_append.mp hv
  · exact hs v hv
  · rwa [List.mem_singleton.mp hv]

theorem errorResponse_traceWf {st : Status} (hs : s.traceWf) (h : st ≠ .ok) : (s.errorResponse st).traceWf :=
  traceWf_of_out_append hs (State.errorResponse_out s st) (rspWellFormed_error h)

/-! ### The registers of the round steps -/

/-- Round `r`, as a number of rounds completed, is its own entry. -/
theorem ofNat_round (r : Round) : Fin.ofNat 16 r.val = r := Fin.ofNat_val_eq_self r

theorem keyHalvesAfter_round (key : Key) (r : Round) :
    keyHalvesAfter key (r.val + 1) = rotateKeyHalves r (keyHalvesAfter key r.val) := by
  rw [keyHalvesAfter, ofNat_round]

theorem halvesAfter_round (keys : RoundKeySet) (block : Block) (r : Round) :
    halvesAfter keys block (r.val + 1) = feistelStep (decryptSubkey keys r) (halvesAfter keys block r.val) := by
  rw [halvesAfter, ofNat_round]

/-- The registers hold the key schedule of `key` after `n` rounds: Cₙ, Dₙ and `RK[1..n]` (rule R37). -/
def State.holdsSchedule (s : State) (key : Key) (n : Nat) : Prop :=
  s.keyHalves = keyHalvesAfter key n ∧ ∀ r : Round, r.val < n → s.RK.get r = (derive key).get r

theorem ksInv_iff : ksInv s ↔ s.rc.toNat ≤ 15 ∧ s.kv = false ∧ ∃ key, s.holdsSchedule key s.rc.toNat := Iff.rfl

/-- Rule R122: a KS step takes the schedule one round on. -/
theorem holdsSchedule_ksRound {key : Key} {r : Round} (h : s.holdsSchedule key r.val) :
    (ksRound r s).holdsSchedule key (r.val + 1) := by
  obtain ⟨hhalves, hkeys⟩ := h
  refine ⟨by rw [ksRound_keyHalves, hhalves, keyHalvesAfter_round], fun q hq => ?_⟩
  rw [ksRound_RK_get]
  by_cases hqr : q = r
  · rw [if_pos hqr, hqr, hhalves, ← keyHalvesAfter_round, derive_get]
  · have hne : q.val ≠ r.val := fun e => hqr (Fin.ext e)
    rw [if_neg hqr]
    exact hkeys q (by omega)

/-- After sixteen rounds the round-key file holds the whole RoundKeySet. -/
theorem RK_eq_derive_of_holdsSchedule {key : Key} (h : s.holdsSchedule key 16) : s.RK = derive key :=
  RoundKeySet.ext_get fun r => h.2 r r.isLt

/-! ### Every step keeps the invariant -/

theorem ldkeyAccept_inv (key : Key) (hs : s.traceWf) : (ldkeyAccept key s).Inv :=
  (inv_ks_iff rfl).mpr
    ⟨hs, ksInv_iff.mpr ⟨Nat.zero_le _, rfl, key, rfl, fun r hr => absurd hr (Nat.not_lt_zero r.val)⟩⟩

/-- Rule R228: an error response changes nothing but the trace. -/
theorem errorResponse_inv {st : Status} (hp : s.phase = .idle) (hs : s.Inv) (h : st ≠ .ok) :
    (s.errorResponse st).Inv := by
  obtain ⟨htrace, hidle⟩ := (inv_idle_iff hp).mp hs
  have hphase : (s.errorResponse st).phase = .idle := hp
  exact (inv_idle_iff hphase).mpr ⟨errorResponse_traceWf htrace h, hidle⟩

theorem decblkAccept_inv (block : Block) (hp : s.phase = .idle) (hs : s.Inv) : (decblkAccept block s).Inv := by
  obtain ⟨htrace, ⟨-, hkv⟩ | ⟨-, hkv, hkey⟩⟩ := (inv_idle_iff hp).mp hs
  · rw [decblkAccept_noKey block s hkv]
    exact errorResponse_inv hp hs (by decide)
  · rw [decblkAccept_key block s hkv]
    exact (inv_rnd_iff rfl).mpr ⟨htrace, Nat.zero_le _, hkv, hkey, block, rfl⟩

theorem ksRound_inv {r : Round} (hp : s.phase = .ks) (hn : s.rc.toNat = r.val) (hs : s.Inv) : (ksRound r s).Inv := by
  obtain ⟨htrace, -, hkv, key, hsched⟩ := (inv_ks_iff hp).mp hs
  have hnext : (ksRound r s).holdsSchedule key (r.val + 1) := holdsSchedule_ksRound (hn ▸ hsched)
  have hcount : (ksRound r s).rc.toNat = r.val + 1 := by rw [ksRound_rc, countRound_toNat]
  by_cases hlast : r.val = 15
  · have hphase : (ksRound r s).phase = .idle := by rw [ksRound_phase, if_neg (by omega)]
    rw [inv_idle_iff hphase]
    refine ⟨traceWf_of_out_append htrace (by rw [ksRound_out, if_pos hlast]) (rspWellFormed_ok _), .inr ⟨?_, ?_, key, ?_⟩⟩
    · rw [ksRound_rc, hlast]
    · rw [ksRound_kv, if_pos hlast]
    · rw [hlast] at hnext
      exact RK_eq_derive_of_holdsSchedule hnext
  · have hphase : (ksRound r s).phase = .ks := by rw [ksRound_phase, if_pos (by omega), hp]
    rw [inv_ks_iff hphase, ksInv_iff, hcount]
    refine ⟨traceWf_of_out_eq htrace (by rw [ksRound_out, if_neg hlast]), by omega, ?_, key, hnext⟩
    rw [ksRound_kv, if_neg hlast, hkv]

theorem rndRound_inv {r : Round} (hp : s.phase = .rnd) (hn : s.rc.toNat = r.val) (hs : s.Inv) : (rndRound r s).Inv := by
  obtain ⟨htrace, -, hkv, hkey, block, hhalves⟩ := (inv_rnd_iff hp).mp hs
  have htrace' : (rndRound r s).traceWf := traceWf_of_out_eq htrace (rndRound_out r s)
  have hkv' : (rndRound r s).kv = true := by rw [rndRound_kv, hkv]
  have hkey' : (rndRound r s).holdsKey := by rwa [State.holdsKey, rndRound_RK]
  have hnext : (rndRound r s).halves = halvesAfter (rndRound r s).RK block (r.val + 1) := by
    rw [rndRound_halves, rndRound_RK, hhalves, hn, halvesAfter_round]
  have hcount : (rndRound r s).rc.toNat = r.val + 1 := by rw [rndRound_rc, countRound_toNat]
  by_cases hlast : r.val = 15
  · have hphase : (rndRound r s).phase = .fin := by rw [rndRound_phase, if_neg (by omega)]
    rw [hlast] at hnext
    exact (inv_fin_iff hphase).mpr ⟨htrace', by rw [rndRound_rc, hlast], hkv', hkey', block, hnext⟩
  · have hphase : (rndRound r s).phase = .rnd := by rw [rndRound_phase, if_pos (by omega), hp]
    exact (inv_rnd_iff hphase).mpr ⟨htrace', by omega, hkv', hkey', block, by rw [hcount]; exact hnext⟩

theorem finRound_inv (hp : s.phase = .fin) (hs : s.Inv) : (finRound s).Inv := by
  obtain ⟨htrace, hrc, hkv, hkey, -⟩ := (inv_fin_iff hp).mp hs
  exact (inv_idle_iff (finRound_phase s)).mpr
    ⟨traceWf_of_out_append htrace rfl (rspWellFormed_ok _), .inr ⟨hrc, hkv, hkey⟩⟩

theorem resetStep_inv (s : State) : s.resetStep.Inv :=
  (inv_idle_iff rfl).mpr ⟨fun _ hw => absurd hw List.not_mem_nil, .inl ⟨rfl, rfl⟩⟩

/-- The invariant does not speak of the host. -/
theorem hostTick_inv (hs : s.Inv) : s.hostTick.Inv := hs

theorem hostTake_inv (hs : s.Inv) : s.hostTake.Inv := hs

theorem step_keeps_inv (hs : s.Inv) (h : step s = .next t) : t.Inv := by
  obtain ⟨-, rfl⟩ | ⟨-, hp, -, rfl⟩ | ⟨w, key, -, hp, -, -, rfl⟩ | ⟨w, block, -, hp, -, -, rfl⟩ |
    ⟨w, e, -, hp, -, -, rfl⟩ | ⟨r, -, hp, hn, rfl⟩ | ⟨r, -, hp, hn, rfl⟩ | ⟨-, hp, rfl⟩ := step_cases h
  · exact resetStep_inv _
  · exact hostTick_inv hs
  · exact ldkeyAccept_inv key hs.1
  · exact decblkAccept_inv block hp (hostTake_inv hs)
  · exact errorResponse_inv hp (hostTake_inv hs) (by decide)
  · exact ksRound_inv hp hn (hostTick_inv hs)
  · exact rndRound_inv hp hn (hostTick_inv hs)
  · exact finRound_inv hp (hostTick_inv hs)

/-- Settles O39: one lemma for each case of `step_cases`. -/
theorem everyStepKeepsTheInvariant : Obligations.EveryStepKeepsTheInvariant := by
  unfold Obligations.EveryStepKeepsTheInvariant
  exact fun s t hs h => step_keeps_inv hs h

/-! ### Progress -/

/-- A busy state with at most 15 rounds completed has a next round (rule R24). -/
theorem exists_round (h : s.rc.toNat ≤ 15) : ∃ r : Round, s.rc.toNat = r.val := ⟨⟨s.rc.toNat, by omega⟩, rfl⟩

/-- An idle machine always has a step: accepting, or waiting. -/
theorem exists_step_of_idle (hp : s.phase = .idle) : ∃ t, step s = .next t := by
  cases hr : s.rstPort with
  | true => exact ⟨_, step_reset hr⟩
  | false =>
    cases hc : s.cmdPort with
    | none => exact ⟨_, step_idle hr hp hc⟩
    | some w => exact ⟨_, (step_accept hp hc).trans (acceptWord_idle w hp)⟩

/-- No state that meets the invariant is stuck: the bounds on `rc` leave a next round. -/
theorem exists_step_of_inv (hs : s.Inv) : ∃ t, step s = .next t := by
  cases hr : s.rstPort with
  | true => exact ⟨_, step_reset hr⟩
  | false =>
    cases hp : s.phase with
    | idle => exact exists_step_of_idle hp
    | ks =>
      obtain ⟨-, hrc, -⟩ := (inv_ks_iff hp).mp hs
      obtain ⟨r, hn⟩ := exists_round hrc
      exact ⟨_, step_ks hr hp hn⟩
    | rnd =>
      obtain ⟨-, hrc, -⟩ := (inv_rnd_iff hp).mp hs
      obtain ⟨r, hn⟩ := exists_round hrc
      exact ⟨_, step_rnd hr hp hn⟩
    | fin => exact ⟨_, step_fin hr hp⟩

theorem safe_of_inv (hs : s.Inv) : s.Safe := by
  intro k
  induction k generalizing s with
  | zero => exact ⟨s, rfl⟩
  | succ k ih =>
    obtain ⟨t, ht⟩ := exists_step_of_inv hs
    rw [runSteps_succ ht]
    exact ih (step_keeps_inv hs ht)

/-- Settles O40: a state that meets the invariant has a step, and the step leads to another one. -/
theorem noRunStopsFromTheInvariant : Obligations.NoRunStopsFromTheInvariant := by
  unfold Obligations.NoRunStopsFromTheInvariant
  exact fun s hs => safe_of_inv hs

end Sys2Proof.Machine

/-! Runs of one command (`spec/41_key_schedule.md` section 3, `spec/43_block_cipher.md` section 2): the state after each of
its steps, written out, up to its whole effect; the obligations O41 to O45 assembled from them. -/

namespace Sys2Proof.Machine

variable {s t u : State} {w : CmdWord} {key : Key} {block : Block}

/-! ### One step more -/

theorem runSteps_one (s : State) : runSteps 1 s = step s := by
  rw [runSteps_eq]
  cases step s <;> rfl

/-- A run and one step after it. -/
theorem runSteps_snoc {k : Nat} (h : runSteps k s = .next u) (hu : step u = .next t) :
    runSteps (k + 1) s = .next t := by
  rw [runSteps_add h, runSteps_one, hu]

theorem hostAfterTicks_zero (h : List HostItem) : hostAfterTicks 0 h = h := rfl

/-- The host drives no reset at the step after `n` busy ones. -/
theorem head_hostAfterTicks_of_busyResetFree {n : Nat} {h : List HostItem} (hfree : busyResetFree (n + 1) h = true) :
    ((hostAfterTicks n h).head? == some HostItem.reset) = false := by
  obtain ⟨-, hlast⟩ := (busyResetFree_add n 1 h).mp hfree
  exact ((busyResetFree_succ 0 _).mp hlast).1

/-- Fewer steps of a host that drives no reset. -/
theorem busyResetFree_of_le {m n : Nat} {h : List HostItem} (hle : m ≤ n) (hfree : busyResetFree n h = true) :
    busyResetFree m h = true := by
  rw [← Nat.add_sub_cancel' hle] at hfree
  exact ((busyResetFree_add m (n - m) h).mp hfree).1

/-! ### LDKEY (rules R120 to R122) -/

/-- The round-key file with the first `n` subkeys of `key` written and the other entries as in `old`. -/
def partialSchedule (key : Key) (old : RoundKeySet) (n : Nat) : RoundKeySet :=
  Vector.ofFn fun r : Round => if r.val < n then (derive key).get r else old.get r

theorem partialSchedule_get (key : Key) (old : RoundKeySet) (n : Nat) (r : Round) :
    (partialSchedule key old n).get r = if r.val < n then (derive key).get r else old.get r := by
  rw [partialSchedule, Vector.get_eq_getElem, Vector.getElem_ofFn]

theorem partialSchedule_zero (key : Key) (old : RoundKeySet) : partialSchedule key old 0 = old :=
  RoundKeySet.ext_get fun r => by rw [partialSchedule_get, if_neg (Nat.not_lt_zero _)]

theorem partialSchedule_sixteen (key : Key) (old : RoundKeySet) : partialSchedule key old 16 = derive key :=
  RoundKeySet.ext_get fun r => by rw [partialSchedule_get, if_pos r.isLt]

/-- Rule R122: writing entry `r` takes the file one subkey on. -/
theorem partialSchedule_set (key : Key) (old : RoundKeySet) (r : Round) :
    (partialSchedule key old r.val).set r.val ((derive key).get r) = partialSchedule key old (r.val + 1) := by
  apply RoundKeySet.ext_get
  intro q
  rw [RoundKeySet.get_set, partialSchedule_get, partialSchedule_get]
  by_cases hqr : q = r
  · rw [if_pos hqr, hqr, if_pos (Nat.lt_succ_self _)]
  · have hne : q.val ≠ r.val := fun e => hqr (Fin.ext e)
    have hiff : q.val < r.val + 1 ↔ q.val < r.val := by omega
    rw [if_neg hqr, if_congr hiff rfl rfl]

/-- The machine after the accept step of `LDKEY key` in state `s` and `n` of its KS steps. -/
def ldkeyRunning (key : Key) (s : State) (n : Nat) : State :=
  { s with
    C := (keyHalvesAfter key n).C
    D := (keyHalvesAfter key n).D
    RK := partialSchedule key s.RK n
    rc := BitVec.ofNat 5 n
    kv := false
    phase := .ks
    host := hostAfterTicks n s.host.tail }

theorem ldkeyAccept_hostTake (key : Key) (s : State) : ldkeyAccept key s.hostTake = ldkeyRunning key s 0 := by
  rw [ldkeyRunning, partialSchedule_zero]
  rfl

/-- Rule R122 on the state of a running LDKEY: the halves and the written entry are those of the next round. -/
theorem ksRound_ldkeyRunning (key : Key) (s : State) (r : Round) :
    ksRound r (ldkeyRunning key s r.val).hostTick = { ldkeyRunning key s (r.val + 1) with
      kv := if r.val = 15 then true else false
      phase := if r.val = 15 then .idle else .ks
      out := if r.val = 15 then s.out ++ [0x000000000000000000#72] else s.out } := by
  have hRK : (partialSchedule key s.RK r.val).set r.val
      (permute (rotl28 (keyHalvesAfter key r.val).C (shift r) ++ rotl28 (keyHalvesAfter key r.val).D (shift r)) pc2) =
        partialSchedule key s.RK (r.val + 1) := by
    rw [← partialSchedule_set, derive_get, keyHalvesAfter_round]
    rfl
  rw [ksRound_eq, ldkeyRunning, ldkeyRunning, keyHalvesAfter_round, hostAfterTicks_succ, ← hRK]
  rfl

/-- A running LDKEY takes one KS step more, up to the fifteenth. -/
theorem step_ldkeyRunning {n : Nat} (hn : n < 15) (hfree : busyResetFree (n + 1) s.host.tail = true) :
    step (ldkeyRunning key s n) = .next (ldkeyRunning key s (n + 1)) := by
  have hr : (ldkeyRunning key s n).rstPort = false := by
    rw [State.rstPort_eq_head]; exact head_hostAfterTicks_of_busyResetFree hfree
  have hrc : (ldkeyRunning key s n).rc.toNat = n := by
    rw [ldkeyRunning, BitVec.toNat_ofNat]; omega
  have hround := ksRound_ldkeyRunning key s ⟨n, by omega⟩
  have hne : n ≠ 15 := by omega
  rw [step_ks (r := ⟨n, by omega⟩) hr rfl hrc, hround]
  simp only [hne, if_false]
  rfl

/-- The sixteenth KS step completes an LDKEY: its whole effect (rule R120). -/
theorem step_ldkeyRunning_last (hfree : busyResetFree 16 s.host.tail = true) :
    step (ldkeyRunning key s 15) = .next ((ldkeyTransaction key s).withHost (hostAfterTicks 16 s.host.tail)) := by
  have hr : (ldkeyRunning key s 15).rstPort = false := by
    rw [State.rstPort_eq_head]; exact head_hostAfterTicks_of_busyResetFree hfree
  have hround : ksRound 15 (ldkeyRunning key s 15).hostTick = { ldkeyRunning key s 16 with
      kv := true
      phase := .idle
      out := s.out ++ [0x000000000000000000#72] } := ksRound_ldkeyRunning key s 15
  rw [step_ks (r := 15) hr rfl rfl, hround, ldkeyRunning, partialSchedule_sixteen]
  rfl

theorem step_ldkey (hp : s.phase = .idle) (hc : s.cmdPort = some w) (hd : decode w = .ok (.ldkey key)) :
    step s = .next (ldkeyRunning key s 0) := by
  have hp' : s.hostTake.phase = .idle := hp
  rw [step_of_decode hp hc hd, exec_ldkey_idle key hp', ldkeyAccept_hostTake]

/-- While an LDKEY runs: the accept step and `n` KS steps, `n` at most 15. -/
theorem runSteps_ldkey {n : Nat} (hp : s.phase = .idle) (hc : s.cmdPort = some w) (hd : decode w = .ok (.ldkey key))
    (hn : n ≤ 15) (hfree : busyResetFree n s.host.tail = true) :
    runSteps (n + 1) s = .next (ldkeyRunning key s n) := by
  induction n with
  | zero => rw [runSteps_one, step_ldkey hp hc hd]
  | succ n ih =>
    exact runSteps_snoc (ih (by omega) (busyResetFree_of_le (Nat.le_succ n) hfree)) (step_ldkeyRunning (by omega) hfree)

/-- The 17 steps of an LDKEY (rule R120). -/
theorem runSteps_ldkey_all (hp : s.phase = .idle) (hc : s.cmdPort = some w) (hd : decode w = .ok (.ldkey key))
    (hfree : busyResetFree 16 s.host.tail = true) :
    runSteps 17 s = .next ((ldkeyTransaction key s).withHost (hostAfterTicks 16 s.host.tail)) :=
  runSteps_snoc (runSteps_ldkey hp hc hd (Nat.le_refl 15) (busyResetFree_of_le (by decide) hfree))
    (step_ldkeyRunning_last hfree)

/-- Settles O44: the run ends in the transaction, which is the state written out. -/
theorem ldkeyRunHasItsWholeEffect : Obligations.LdkeyRunHasItsWholeEffect := by
  unfold Obligations.LdkeyRunHasItsWholeEffect
  intro s w key hp hc hd hfree
  rw [runSteps_ldkey_all hp hc hd hfree]
  rfl

/-- Settles O42: below round 16 the state is `ldkeyRunning`, after it the whole effect. -/
theorem ksStepsHoldTheSchedule : Obligations.KsStepsHoldTheSchedule := by
  unfold Obligations.KsStepsHoldTheSchedule
  intro s w key n hp hc hd hn hfree
  obtain hlt | rfl := Nat.lt_or_eq_of_le hn
  · refine ⟨_, runSteps_ldkey hp hc hd (by omega) hfree, rfl, rfl, ?count, fun r hr => ?written, fun r hr => ?kept,
      fun _ => ⟨rfl, rfl, rfl⟩⟩
    case count => rw [ldkeyRunning, BitVec.toNat_ofNat]; omega
    case written => rw [ldkeyRunning, partialSchedule_get, if_pos hr]
    case kept => rw [ldkeyRunning, partialSchedule_get, if_neg (by omega)]
  · refine ⟨_, runSteps_ldkey_all hp hc hd hfree, rfl, rfl, rfl, fun r _ => rfl, fun r hr => ?_, fun h => ?_⟩
    · exact absurd r.isLt (by omega)
    · exact absurd h (Nat.lt_irrefl 16)

/-! ### DECBLK (rules R168 to R171) -/

/-- The machine after the accept step of `DECBLK block` in state `s`, with a key, and `n` of its RND steps. -/
def decblkRunning (block : Block) (s : State) (n : Nat) : State :=
  { s with
    L := (halvesAfter s.RK block n).L
    R := (halvesAfter s.RK block n).R
    rc := BitVec.ofNat 5 n
    phase := if n < 16 then .rnd else .fin
    host := hostAfterTicks n s.host.tail }

theorem step_decblk (hp : s.phase = .idle) (hkv : s.kv = true) (hc : s.cmdPort = some w)
    (hd : decode w = .ok (.decblk block)) : step s = .next (decblkRunning block s 0) := by
  have hp' : s.hostTake.phase = .idle := hp
  have hkv' : s.hostTake.kv = true := hkv
  rw [step_of_decode hp hc hd, exec_decblk_idle block hp', decblkAccept_key block _ hkv']
  rfl

/-- Rule R170 on the state of a running DECBLK: the halves are those of the next round. -/
theorem rndRound_decblkRunning (block : Block) (s : State) (r : Round) :
    rndRound r (decblkRunning block s r.val).hostTick = decblkRunning block s (r.val + 1) := by
  have hphase : (if r.val = 15 then Phase.fin else if r.val < 16 then Phase.rnd else Phase.fin) =
      if r.val + 1 < 16 then .rnd else .fin := by
    by_cases hlast : r.val = 15
    · rw [if_pos hlast, if_neg (by omega)]
    · rw [if_neg hlast, if_pos r.isLt, if_pos (by omega)]
  rw [rndRound_eq, ← rev_round, decblkRunning, decblkRunning, halvesAfter_round, hostAfterTicks_succ, ← hphase]
  rfl

theorem step_decblkRunning {n : Nat} (hn : n < 16) (hfree : busyResetFree (n + 1) s.host.tail = true) :
    step (decblkRunning block s n) = .next (decblkRunning block s (n + 1)) := by
  have hr : (decblkRunning block s n).rstPort = false := by
    rw [State.rstPort_eq_head]; exact head_hostAfterTicks_of_busyResetFree hfree
  have hrc : (decblkRunning block s n).rc.toNat = n := by
    rw [decblkRunning, BitVec.toNat_ofNat]; omega
  have hphase : (decblkRunning block s n).phase = .rnd := if_pos hn
  rw [step_rnd (r := ⟨n, hn⟩) hr hphase hrc, rndRound_decblkRunning block s ⟨n, hn⟩]

/-- While a DECBLK runs: the accept step and `n` RND steps. -/
theorem runSteps_decblk {n : Nat} (hp : s.phase = .idle) (hkv : s.kv = true) (hc : s.cmdPort = some w)
    (hd : decode w = .ok (.decblk block)) (hn : n ≤ 16) (hfree : busyResetFree n s.host.tail = true) :
    runSteps (n + 1) s = .next (decblkRunning block s n) := by
  induction n with
  | zero => rw [runSteps_one, step_decblk hp hkv hc hd]
  | succ n ih =>
    exact runSteps_snoc (ih (by omega) (busyResetFree_of_le (Nat.le_succ n) hfree)) (step_decblkRunning hn hfree)

/-- Settles O43: the fields of `decblkRunning`. -/
theorem rndStepsHoldTheHalves : Obligations.RndStepsHoldTheHalves := by
  unfold Obligations.RndStepsHoldTheHalves
  intro s w block n hp hkv hc hd hn hfree
  refine ⟨_, runSteps_decblk hp hkv hc hd hn hfree, rfl, rfl, ?count, rfl, hkv, rfl, rfl, rfl, rfl⟩
  case count => rw [decblkRunning, BitVec.toNat_ofNat]; omega

/-- With a key loaded, the whole effect of a DECBLK field by field (rule R168). -/
theorem decblkTransaction_key (block : Block) (hkv : s.kv = true) : decblkTransaction block s = { s with
    L := (halvesAfter s.RK block 16).L
    R := (halvesAfter s.RK block 16).R
    rc := 16#5
    phase := .idle
    out := s.out ++ [0x00#8 ++ decryptBlock block s.RK] } := by
  rw [decblkTransaction, if_pos hkv]
  rfl

theorem decblkTransaction_noKey (block : Block) (hkv : s.kv = false) :
    decblkTransaction block s = s.errorResponse .noKey := by
  rw [decblkTransaction, hkv, if_neg Bool.false_ne_true]

/-- Rule R171: the FIN step completes a DECBLK. -/
theorem step_decblkRunning_last (hkv : s.kv = true) (hfree : busyResetFree 17 s.host.tail = true) :
    step (decblkRunning block s 16) = .next ((decblkTransaction block s).withHost (hostAfterTicks 17 s.host.tail)) := by
  have hr : (decblkRunning block s 16).rstPort = false := by
    rw [State.rstPort_eq_head]; exact head_hostAfterTicks_of_busyResetFree hfree
  rw [step_fin hr rfl, decblkTransaction_key block hkv, hostAfterTicks_succ]
  rfl

/-- The 18 steps of a DECBLK with a key loaded (rule R168). -/
theorem runSteps_decblk_all (hp : s.phase = .idle) (hkv : s.kv = true) (hc : s.cmdPort = some w)
    (hd : decode w = .ok (.decblk block)) (hfree : busyResetFree 17 s.host.tail = true) :
    runSteps 18 s = .next ((decblkTransaction block s).withHost (hostAfterTicks 17 s.host.tail)) :=
  runSteps_snoc (runSteps_decblk hp hkv hc hd (Nat.le_refl 16) (busyResetFree_of_le (by decide) hfree))
    (step_decblkRunning_last hkv hfree)

/-- The one step of a DECBLK with no key loaded (rule R222). -/
theorem step_decblk_noKey (hp : s.phase = .idle) (hkv : s.kv = false) (hc : s.cmdPort = some w)
    (hd : decode w = .ok (.decblk block)) :
    step s = .next ((decblkTransaction block s).withHost s.host.tail) := by
  have hp' : s.hostTake.phase = .idle := hp
  have hkv' : s.hostTake.kv = false := hkv
  rw [step_of_decode hp hc hd, exec_decblk_idle block hp', decblkAccept_noKey block _ hkv',
    decblkTransaction_noKey block hkv]
  rfl

/-- Settles O45: both runs end in the transaction, which is the state written out. -/
theorem decblkRunHasItsWholeEffect : Obligations.DecblkRunHasItsWholeEffect := by
  unfold Obligations.DecblkRunHasItsWholeEffect
  intro s w block hp hc hd
  refine ⟨fun hkv hfree => ?key, fun hkv => ?noKey⟩
  case key => rw [runSteps_decblk_all hp hkv hc hd hfree, decblkTransaction_key block hkv]; rfl
  case noKey =>
    rw [runSteps_one, step_decblk_noKey hp hkv hc hd, decblkTransaction_noKey block hkv, errorResponse_noKey_eq]
    rfl

/-! ### Any command word (rule R259) -/

theorem commandSteps_ldkey (hd : decode w = .ok (.ldkey key)) (kv : Bool) : commandSteps w kv = 17 := by
  rw [commandSteps, hd]

theorem commandSteps_decblk (hd : decode w = .ok (.decblk block)) (kv : Bool) :
    commandSteps w kv = if kv then 18 else 1 := by
  rw [commandSteps, hd]

theorem commandSteps_error {e : DecodeError} (hd : decode w = .error e) (kv : Bool) : commandSteps w kv = 1 := by
  rw [commandSteps, hd]

theorem transact_ldkey (hd : decode w = .ok (.ldkey key)) (s : State) : transact w s = ldkeyTransaction key s := by
  rw [transact, hd]

theorem transact_decblk (hd : decode w = .ok (.decblk block)) (s : State) :
    transact w s = decblkTransaction block s := by
  rw [transact, hd]

theorem transact_error {e : DecodeError} (hd : decode w = .error e) (s : State) : transact w s = s.illegalOp := by
  rw [transact, hd]

/-- Each command is answered once. -/
theorem exists_transact_out (w : CmdWord) (s : State) : ∃ r, (transact w s).out = s.out ++ [r] := by
  rcases hd : decode w with e | key | block
  · exact ⟨_, by rw [transact_error hd, State.illegalOp_out]⟩
  · exact ⟨_, by rw [transact_ldkey hd]; rfl⟩
  · cases hkv : s.kv with
    | true => exact ⟨_, by rw [transact_decblk hd, decblkTransaction_key block hkv]⟩
    | false => exact ⟨_, by rw [transact_decblk hd, decblkTransaction_noKey block hkv, State.errorResponse_out]⟩

/-- Each command leaves the sequencer idle. -/
theorem transact_phase (w : CmdWord) (hp : s.phase = .idle) : (transact w s).phase = .idle := by
  rcases hd : decode w with e | key | block
  · rw [transact_error hd, State.illegalOp_phase, hp]
  · rw [transact_ldkey hd]; rfl
  · cases hkv : s.kv with
    | true => rw [transact_decblk hd, decblkTransaction_key block hkv]
    | false => rw [transact_decblk hd, decblkTransaction_noKey block hkv, State.errorResponse_phase, hp]

/-- An accepted command word, run for its steps, has its whole effect. -/
theorem runSteps_command (hp : s.phase = .idle) (hc : s.cmdPort = some w)
    (hfree : busyResetFree (commandSteps w s.kv - 1) s.host.tail = true) :
    runSteps (commandSteps w s.kv) s =
      .next ((transact w s).withHost (hostAfterTicks (commandSteps w s.kv - 1) s.host.tail)) := by
  rcases hd : decode w with e | key | block
  · rw [commandSteps_error hd, transact_error hd, runSteps_one, step_accept hp hc, acceptWord_of_decode_error hd]
    rfl
  · rw [commandSteps_ldkey hd] at hfree ⊢
    rw [transact_ldkey hd]
    exact runSteps_ldkey_all hp hc hd hfree
  · rw [commandSteps_decblk hd] at hfree ⊢
    rw [transact_decblk hd]
    cases hkv : s.kv with
    | true =>
      rw [hkv] at hfree
      exact runSteps_decblk_all hp hkv hc hd hfree
    | false => exact (runSteps_one s).trans (step_decblk_noKey hp hkv hc hd)

/-- Before its last step a command is silent and the sequencer busy. -/
theorem runSteps_command_busy {k : Nat} (hp : s.phase = .idle) (hc : s.cmdPort = some w)
    (hfree : busyResetFree (commandSteps w s.kv - 1) s.host.tail = true) (hpos : 0 < k)
    (hk : k < commandSteps w s.kv) : ∃ t, runSteps k s = .next t ∧ t.out = s.out ∧ t.phase ≠ .idle := by
  obtain ⟨n, rfl⟩ : ∃ n, k = n + 1 := ⟨k - 1, by omega⟩
  have hfree' : busyResetFree n s.host.tail = true := busyResetFree_of_le (by omega) hfree
  rcases hd : decode w with e | key | block
  · rw [commandSteps_error hd] at hk
    omega
  · rw [commandSteps_ldkey hd] at hk
    exact ⟨_, runSteps_ldkey hp hc hd (by omega) hfree', rfl, (by decide : Phase.ks ≠ .idle)⟩
  · rw [commandSteps_decblk hd] at hk
    cases hkv : s.kv with
    | true =>
      rw [hkv, if_pos rfl] at hk
      refine ⟨_, runSteps_decblk hp hkv hc hd (by omega) hfree', rfl, ?_⟩
      rw [decblkRunning]
      by_cases hn : n < 16 <;> simp [hn]
    | false =>
      rw [hkv, if_neg Bool.false_ne_true] at hk
      omega

/-- The number of steps by the opcode (rule R259). -/
theorem commandSteps_eq (w : CmdWord) (kv : Bool) :
    commandSteps w kv = if cmdOp w = 0x01#8 then 17 else if cmdOp w = 0x02#8 ∧ kv = true then 18 else 1 := by
  by_cases h1 : cmdOp w = 0x01#8
  · rw [commandSteps_ldkey (decode_of_opLdkey h1), if_pos h1]
  · rw [if_neg h1]
    by_cases h2 : cmdOp w = 0x02#8
    · rw [commandSteps_decblk (decode_of_opDecblk h2), if_congr (and_iff_right h2) rfl rfl]
    · rw [commandSteps_error (decode_of_reserved h1 h2), if_neg (fun h => h2 h.1)]

/-- Settles O41: the number is `commandSteps`; the last step is the transaction's, those before it are silent. -/
theorem commandsAnswerAfterFixedSteps : Obligations.CommandsAnswerAfterFixedSteps := by
  unfold Obligations.CommandsAnswerAfterFixedSteps
  intro s w n hp hc hn hfree
  rw [← commandSteps_eq] at hn
  subst hn
  refine ⟨fun k hk => ?before, ?answer⟩
  case before =>
    obtain rfl | hpos := Nat.eq_zero_or_pos k
    · exact ⟨s, rfl, rfl, fun h => absurd h (Nat.lt_irrefl 0)⟩
    · obtain ⟨t, ht, hout, hbusy⟩ := runSteps_command_busy hp hc hfree hpos hk
      exact ⟨t, ht, hout, fun _ => Bool.eq_false_iff.mpr (mt State.cmdReady_iff.mp hbusy)⟩
  case answer =>
    obtain ⟨r, hr⟩ := exists_transact_out w s
    exact ⟨_, r, runSteps_command hp hc hfree, hr, State.cmdReady_iff.mpr (transact_phase w hp)⟩

end Sys2Proof.Machine

/-! The busy sequencer (`spec/10_state.md` rule R28, `spec/70_reset_and_hazards.md` rule R254): offers wait, and the
operation in progress ends; the obligation O26 assembled from that. -/

namespace Sys2Proof.Machine

variable {s t : State}

/-! ### A busy step does not look at the host's offers -/

theorem ksRound_withHost (r : Round) (s : State) (h : List HostItem) :
    ksRound r (s.withHost h) = (ksRound r s).withHost h := by
  rw [ksRound_eq, ksRound_eq]
  rfl

theorem rndRound_withHost (r : Round) (s : State) (h : List HostItem) :
    rndRound r (s.withHost h) = (rndRound r s).withHost h := by
  rw [rndRound_eq, rndRound_eq]
  rfl

/-- What a busy step with no reset can do: `step_cases` without the cases of an idle machine. -/
theorem busy_step_cases (hr : s.rstPort = false) (hp : s.phase ≠ .idle) (h : step s = .next t) :
    (∃ r : Round, s.phase = .ks ∧ s.rc.toNat = r.val ∧ t = ksRound r s.hostTick) ∨
    (∃ r : Round, s.phase = .rnd ∧ s.rc.toNat = r.val ∧ t = rndRound r s.hostTick) ∨
    (s.phase = .fin ∧ t = finRound s.hostTick) := by
  obtain ⟨hr', -⟩ | ⟨-, hp', -⟩ | ⟨_, _, -, hp', -⟩ | ⟨_, _, -, hp', -⟩ | ⟨_, _, -, hp', -⟩ | ⟨r, -, hks, hn, ht⟩ |
    ⟨r, -, hrnd, hn, ht⟩ | ⟨-, hfin, ht⟩ := step_cases h
  · rw [hr] at hr'; cases hr'
  · exact absurd hp' hp
  · exact absurd hp' hp
  · exact absurd hp' hp
  · exact absurd hp' hp
  · exact .inl ⟨r, hks, hn, ht⟩
  · exact .inr (.inl ⟨r, hrnd, hn, ht⟩)
  · exact .inr (.inr ⟨hfin, ht⟩)

/-- A busy step moves the host's list on and takes nothing from it (rule R254). -/
theorem host_of_busy_step (hr : s.rstPort = false) (hp : s.phase ≠ .idle) (h : step s = .next t) :
    t.host = hostAfterTick s.host := by
  obtain ⟨r, -, -, rfl⟩ | ⟨r, -, -, rfl⟩ | ⟨-, rfl⟩ := busy_step_cases hr hp h <;> simp

/-- A busy step does the same whatever the host drives, reset aside. -/
theorem step_withHost_of_busy (hr : s.rstPort = false) (hp : s.phase ≠ .idle) (h : step s = .next t)
    (hs : List HostItem) (hfree : (s.withHost hs).rstPort = false) :
    step (s.withHost hs) = .next (t.withHost (hostAfterTick hs)) := by
  have htick : (s.withHost hs).hostTick = s.hostTick.withHost (hostAfterTick hs) := rfl
  obtain ⟨r, hks, hn, rfl⟩ | ⟨r, hrnd, hn, rfl⟩ | ⟨hfin, rfl⟩ := busy_step_cases hr hp h
  · rw [step_ks hfree hks hn, htick, ksRound_withHost]
  · rw [step_rnd hfree hrnd hn, htick, rndRound_withHost]
  · rw [step_fin hfree hfin]
    rfl

/-! ### The operation in progress ends -/

/-- The steps the operation in progress still takes. -/
def busyRemaining (s : State) : Nat :=
  match s.phase with
  | .idle => 0
  | .ks => 16 - s.rc.toNat
  | .rnd => 17 - s.rc.toNat
  | .fin => 1

theorem busyRemaining_idle (hp : s.phase = .idle) : busyRemaining s = 0 := by rw [busyRemaining, hp]
theorem busyRemaining_ks (hp : s.phase = .ks) : busyRemaining s = 16 - s.rc.toNat := by rw [busyRemaining, hp]
theorem busyRemaining_rnd (hp : s.phase = .rnd) : busyRemaining s = 17 - s.rc.toNat := by rw [busyRemaining, hp]
theorem busyRemaining_fin (hp : s.phase = .fin) : busyRemaining s = 1 := by rw [busyRemaining, hp]

/-- At most 17 steps are left, rule R28's bound. -/
theorem busyRemaining_le (s : State) : busyRemaining s ≤ 17 := by
  cases hp : s.phase with
  | idle => rw [busyRemaining_idle hp]; omega
  | ks => rw [busyRemaining_ks hp]; omega
  | rnd => rw [busyRemaining_rnd hp]; omega
  | fin => rw [busyRemaining_fin hp]; omega

/-- Under the invariant a busy sequencer has a step left, since `rc` is at most 15 in KS and RND. -/
theorem idle_of_busyRemaining_eq_zero (hs : s.Inv) (h : busyRemaining s = 0) : s.phase = .idle := by
  cases hp : s.phase with
  | idle => rfl
  | ks =>
    obtain ⟨-, hrc, -⟩ := (inv_ks_iff hp).mp hs
    rw [busyRemaining_ks hp] at h; omega
  | rnd =>
    obtain ⟨-, hrc, -⟩ := (inv_rnd_iff hp).mp hs
    rw [busyRemaining_rnd hp] at h; omega
  | fin => rw [busyRemaining_fin hp] at h; omega

/-- Each busy step leaves one step less. -/
theorem busyRemaining_step (hr : s.rstPort = false) (hp : s.phase ≠ .idle) (h : step s = .next t) :
    busyRemaining t + 1 = busyRemaining s := by
  obtain ⟨r, hks, hn, rfl⟩ | ⟨r, hrnd, hn, rfl⟩ | ⟨hfin, rfl⟩ := busy_step_cases hr hp h
  · have hphase := ksRound_phase r s.hostTick
    rw [State.hostTick_phase, hks] at hphase
    rw [busyRemaining_ks hks, hn]
    by_cases hlt : r.val < 15
    · rw [busyRemaining_ks (hphase.trans (if_pos hlt)), ksRound_rc, countRound_toNat]; omega
    · rw [busyRemaining_idle (hphase.trans (if_neg hlt))]; omega
  · have hphase := rndRound_phase r s.hostTick
    rw [State.hostTick_phase, hrnd] at hphase
    rw [busyRemaining_rnd hrnd, hn]
    by_cases hlt : r.val < 15
    · rw [busyRemaining_rnd (hphase.trans (if_pos hlt)), rndRound_rc, countRound_toNat]; omega
    · rw [busyRemaining_fin (hphase.trans (if_neg hlt))]; omega
  · rw [busyRemaining_fin hfin, busyRemaining_idle (finRound_phase _)]

/-- From a state that meets the invariant the steps left, with no reset among them, lead to an idle one. -/
theorem runSteps_busyRemaining {n : Nat} (hs : s.Inv) (hn : busyRemaining s = n) (hfree : busyResetFree n s.host = true) :
    ∃ t, runSteps n s = .next t ∧ t.phase = .idle := by
  induction n generalizing s with
  | zero => exact ⟨s, rfl, idle_of_busyRemaining_eq_zero hs hn⟩
  | succ n ih =>
    have hp : s.phase ≠ .idle := fun hp => by rw [busyRemaining_idle hp] at hn; cases hn
    rw [busyResetFree_succ, ← State.rstPort_eq_head] at hfree
    obtain ⟨hr, hrest⟩ := hfree
    obtain ⟨t, ht⟩ := exists_step_of_inv hs
    rw [runSteps_succ ht]
    have hleft := busyRemaining_step hr hp ht
    rw [← host_of_busy_step hr hp ht] at hrest
    exact ih (step_keeps_inv hs ht) (by omega) hrest

/-- Rule R28: a busy sequencer runs no instruction (assumption 5). -/
theorem exec_busy (i : Instr) (hp : s.phase ≠ .idle) : exec i s = .next s := by
  cases i with
  | ldkey key => exact acceptWhenIdle_busy (ldkeyAccept key) hp
  | decblk block => exact acceptWhenIdle_busy (decblkAccept block) hp

/-- Settles O26: the busy step by `busy_step_cases`, the bound by the steps left. -/
theorem busySequencerLetsCommandsWait : Obligations.BusySequencerLetsCommandsWait := by
  unfold Obligations.BusySequencerLetsCommandsWait
  refine ⟨fun s => State.cmdReady_iff, fun i s hp => exec_busy i hp, fun w rest s t hp hh h => ?waits,
    fun s hs _ hfree => ?ends⟩
  case waits =>
    have hr : s.rstPort = false := by rw [State.rstPort_eq_head, hh]; rfl
    refine ⟨?_, step_withHost_of_busy hr hp h [] rfl⟩
    rw [host_of_busy_step hr hp h, hh, hostAfterTick]
  case ends =>
    obtain ⟨t, ht, hidle⟩ := runSteps_busyRemaining hs rfl (busyResetFree_of_le (busyRemaining_le s) hfree)
    exact ⟨busyRemaining s, t, busyRemaining_le s, ht, hidle⟩

end Sys2Proof.Machine

/-! Runs of command scripts (`spec/20_memory.md` section 4, `spec/70_reset_and_hazards.md` sections 3 and 4): the commands'
whole effects one after the other; the obligations O46, O47 and O53 assembled from them. -/

namespace Sys2Proof.Machine

variable {s : State}

/-! ### Held commands wait -/

theorem hostAfterTick_commands (script : List CmdWord) :
    hostAfterTick (script.map .command) = script.map .command := by
  cases script <;> rfl

theorem hostAfterTicks_commands (k : Nat) (script : List CmdWord) :
    hostAfterTicks k (script.map .command) = script.map .command := by
  induction k with
  | zero => rfl
  | succ k ih => rw [hostAfterTicks_succ, ih, hostAfterTick_commands]

theorem busyResetFree_commands (k : Nat) (script : List CmdWord) : busyResetFree k (script.map .command) = true := by
  induction k with
  | zero => rfl
  | succ k ih =>
    rw [busyResetFree_succ, hostAfterTick_commands]
    exact ⟨by cases script <;> rfl, ih⟩

/-! ### The run of a script is its transactions -/

/-- The whole effects of a script's commands, one after the other. -/
def transactAll (script : List CmdWord) (s : State) : State := script.foldl (fun u w => transact w u) s

@[simp] theorem transactAll_nil (s : State) : transactAll [] s = s := rfl

@[simp] theorem transactAll_cons (w : CmdWord) (script : List CmdWord) (s : State) :
    transactAll (w :: script) s = transactAll script (transact w s) := rfl

/-- The whole effect of a command does not look at the host's list and keeps it. -/
theorem transact_withHost (w : CmdWord) (s : State) (h : List HostItem) :
    transact w (s.withHost h) = (transact w s).withHost h := by
  rcases hd : decode w with e | key | block
  · rw [transact_error hd, transact_error hd]; rfl
  · rw [transact_ldkey hd, transact_ldkey hd]; rfl
  · rw [transact_decblk hd, transact_decblk hd]
    cases hkv : s.kv with
    | true => rw [decblkTransaction_key block hkv, decblkTransaction_key (s := s.withHost h) block hkv]; rfl
    | false => rw [decblkTransaction_noKey block hkv, decblkTransaction_noKey (s := s.withHost h) block hkv]; rfl

/-- A command offered before others that wait, run for its steps. -/
theorem runSteps_command_then (w : CmdWord) (rest : List CmdWord) (hp : s.phase = .idle) :
    runSteps (commandSteps w s.kv) (s.withHost ((w :: rest).map .command)) =
      .next ((transact w s).withHost (rest.map .command)) := by
  have h := runSteps_command (s := s.withHost ((w :: rest).map .command)) (w := w) hp rfl
    (busyResetFree_commands _ rest)
  rw [State.withHost_kv, transact_withHost] at h
  rw [h]
  exact congrArg (fun hs => Host.Outcome.next ((transact w s).withHost hs)) (hostAfterTicks_commands _ rest)

theorem runSteps_script (script : List CmdWord) (hp : s.phase = .idle) :
    runSteps (scriptSteps script s) (s.withHost (script.map .command)) =
      .next ((transactAll script s).withHost []) := by
  induction script generalizing s with
  | nil => rfl
  | cons w rest ih =>
    rw [scriptSteps, runSteps_add (runSteps_command_then w rest hp), transactAll_cons]
    exact ih (transact_phase w hp)

theorem transactAll_phase (script : List CmdWord) (hp : s.phase = .idle) : (transactAll script s).phase = .idle := by
  induction script generalizing s with
  | nil => exact hp
  | cons w rest ih => exact ih (transact_phase w hp)

theorem transactAll_out_length (script : List CmdWord) (s : State) :
    (transactAll script s).out.length = s.out.length + script.length := by
  induction script generalizing s with
  | nil => rfl
  | cons w rest ih =>
    obtain ⟨r, hr⟩ := exists_transact_out w s
    rw [transactAll_cons, ih, hr]
    simp only [List.length_append, List.length_cons, List.length_nil]
    omega

theorem withHost_host (s : State) : s.withHost s.host = s := rfl

/-- Settles O46: `runSteps_script` from the state's own host list. -/
theorem scriptRunIsItsTransactions : Obligations.ScriptRunIsItsTransactions := by
  unfold Obligations.ScriptRunIsItsTransactions
  intro script s hp hh
  have hrun := runSteps_script script hp
  rw [← hh, withHost_host] at hrun
  exact ⟨_, hrun, rfl, transactAll_phase script hp, transactAll_out_length script s⟩

/-! ### A sequence of blocks under one key -/

theorem transact_encode_decblk (c : Block) (s : State) : transact (encode (.decblk c)) s = decblkTransaction c s :=
  transact_decblk (decode_encode (.decblk c)) s

/-- What a sequence of blocks leaves of the key, and the decryptions it appends, each under the same `RK`. -/
theorem transactAll_blocks (blocks : List Block) (hkv : s.kv = true) :
    (transactAll (blocks.map fun c => encode (.decblk c)) s).out =
        s.out ++ blocks.map (fun c => 0x00#8 ++ decryptBlock c s.RK) ∧
      (transactAll (blocks.map fun c => encode (.decblk c)) s).RK = s.RK ∧
      (transactAll (blocks.map fun c => encode (.decblk c)) s).kv = true ∧
      (transactAll (blocks.map fun c => encode (.decblk c)) s).C = s.C ∧
      (transactAll (blocks.map fun c => encode (.decblk c)) s).D = s.D := by
  induction blocks generalizing s with
  | nil => simp [hkv]
  | cons c rest ih =>
    have hc := decblkTransaction_key c hkv
    have hrest := ih (s := decblkTransaction c s) (by rw [hc]; exact hkv)
    rw [List.map_cons, transactAll_cons, transact_encode_decblk, List.map_cons]
    rw [hc] at hrest ⊢
    simpa using hrest

theorem scriptSteps_blocks (blocks : List Block) (hkv : s.kv = true) :
    scriptSteps (blocks.map fun c => encode (.decblk c)) s = 18 * blocks.length := by
  induction blocks generalizing s with
  | nil => rfl
  | cons c rest ih =>
    have hc := decblkTransaction_key c hkv
    rw [List.map_cons, scriptSteps, commandSteps_decblk (decode_encode (.decblk c)), if_pos hkv,
      transact_encode_decblk, ih (by rw [hc]; exact hkv), List.length_cons]
    omega

/-- Settles O47: the run is the transactions, and each of them decrypts under the same `RK`. -/
theorem blocksAreDecryptedIndependently : Obligations.BlocksAreDecryptedIndependently := by
  unfold Obligations.BlocksAreDecryptedIndependently
  intro blocks s hp hkv hh
  have hrun := runSteps_script (blocks.map fun c => encode (.decblk c)) hp
  rw [List.map_map, show (HostItem.command ∘ fun c => encode (.decblk c)) = fun c => .command (encode (.decblk c)) from rfl,
    ← hh, withHost_host, scriptSteps_blocks blocks hkv] at hrun
  obtain ⟨hout, hRK, hkv', hC, hD⟩ := transactAll_blocks blocks hkv
  exact ⟨_, hrun, hout, hRK, hkv', hC, hD, transactAll_phase _ hp⟩

/-- Settles O53: the LDKEY loads `derive key`, under which the blocks that follow are decrypted. -/
theorem streamCommandsTakeTheStatedSteps : Obligations.StreamCommandsTakeTheStatedSteps := by
  unfold Obligations.StreamCommandsTakeTheStatedSteps
  intro key blocks s hp
  have hrun := runSteps_script (streamCommands key blocks) hp
  have hdec : decode (encode (.ldkey key)) = .ok (.ldkey key) := decode_encode (.ldkey key)
  have hkv : (ldkeyTransaction key s).kv = true := rfl
  rw [streamCommands, scriptSteps, commandSteps_ldkey hdec, transact_ldkey hdec, scriptSteps_blocks blocks hkv,
    transactAll_cons, transact_ldkey hdec] at hrun
  obtain ⟨hout, hRK, hkv', -, -⟩ := transactAll_blocks blocks hkv
  refine ⟨_, hrun, ?_, hRK, hkv', transactAll_phase _ rfl⟩
  rw [State.withHost_out, hout, ldkeyTransaction, State.respond_out, List.append_assoc]
  rfl

end Sys2Proof.Machine

/-! The unspecified contents of the datapath registers never reach the host (`spec/00_scope.md` section 7,
`spec/10_state.md` section 8): two machines that differ in them only where nothing has been written yet stay so, step by
step; the obligation O48 assembled from that. -/

namespace Sys2Proof.Machine

variable {s t : State}

/-- What two states must share in the registers of the operation in progress: in KS the halves and the entries written so
far, in RND and FIN the two halves of the block; idle, nothing. -/
def sameOperation (s t : State) : Prop :=
  match s.phase with
  | .idle => True
  | .ks => s.rc.toNat ≤ 15 ∧ s.kv = false ∧ s.keyHalves = t.keyHalves ∧
      ∀ r : Round, r.val < s.rc.toNat → s.RK.get r = t.RK.get r
  | .rnd => s.rc.toNat ≤ 15 ∧ s.kv = true ∧ s.halves = t.halves
  | .fin => s.kv = true ∧ s.halves = t.halves

theorem sameOperation_idle (hp : s.phase = .idle) : sameOperation s t := by rw [sameOperation, hp]; trivial

theorem sameOperation_ks_iff (hp : s.phase = .ks) : sameOperation s t ↔
    s.rc.toNat ≤ 15 ∧ s.kv = false ∧ s.keyHalves = t.keyHalves ∧
      ∀ r : Round, r.val < s.rc.toNat → s.RK.get r = t.RK.get r := by rw [sameOperation, hp]

theorem sameOperation_rnd_iff (hp : s.phase = .rnd) :
    sameOperation s t ↔ s.rc.toNat ≤ 15 ∧ s.kv = true ∧ s.halves = t.halves := by rw [sameOperation, hp]

theorem sameOperation_fin_iff (hp : s.phase = .fin) :
    sameOperation s t ↔ s.kv = true ∧ s.halves = t.halves := by rw [sameOperation, hp]

/-- Two states that the host cannot tell apart, now or later: equal but for `draws` and for the datapath registers that no
step will read before it writes them. -/
structure Indistinguishable (s t : State) : Prop where
  phase : s.phase = t.phase
  rc : s.rc = t.rc
  kv : s.kv = t.kv
  out : s.out = t.out
  host : s.host = t.host
  /-- While `kv = 1` the whole round-key file is in use. -/
  RK : s.kv = true → s.RK = t.RK
  operation : sameOperation s t

namespace Indistinguishable

/-! ### The ports agree -/

theorem rstPort (h : Indistinguishable s t) : s.rstPort = t.rstPort := by
  rw [State.rstPort, State.rstPort, h.host]

theorem cmdPort (h : Indistinguishable s t) : s.cmdPort = t.cmdPort := by
  rw [State.cmdPort, State.cmdPort, h.host]

theorem observe (h : Indistinguishable s t) : s.observe = t.observe := by
  rw [State.observe, State.observe, State.cmdReady, State.cmdReady, State.kvPort, State.kvPort, h.out, h.phase, h.kv]

/-! ### Each move keeps the relation -/

theorem hostTick (h : Indistinguishable s t) : Indistinguishable s.hostTick t.hostTick :=
  { h with host := congrArg hostAfterTick h.host }

theorem hostTake (h : Indistinguishable s t) : Indistinguishable s.hostTake t.hostTake :=
  { h with host := congrArg List.tail h.host }

/-- Reset leaves nothing of the datapath in use. -/
theorem resetStep (h : Indistinguishable s t) : Indistinguishable s.resetStep t.resetStep where
  phase := rfl
  rc := rfl
  kv := rfl
  out := rfl
  host := h.host
  RK hkv := by cases hkv
  operation := trivial

/-- LDKEY writes the halves from the key alone. -/
theorem ldkeyAccept (h : Indistinguishable s t) (key : Key) :
    Indistinguishable (ldkeyAccept key s) (ldkeyAccept key t) where
  phase := rfl
  rc := rfl
  kv := rfl
  out := h.out
  host := h.host
  RK hkv := by cases hkv
  operation := ⟨Nat.zero_le _, rfl, rfl, fun r hr => absurd hr (Nat.not_lt_zero r.val)⟩

theorem errorResponse (h : Indistinguishable s t) (hp : s.phase = .idle) (st : Status) :
    Indistinguishable (s.errorResponse st) (t.errorResponse st) :=
  { h with
    out := by rw [State.errorResponse_out, State.errorResponse_out, h.out]
    operation := sameOperation_idle hp }

/-- DECBLK runs only with the whole round-key file in use, and writes the halves from the block alone. -/
theorem decblkAccept (h : Indistinguishable s t) (hp : s.phase = .idle) (block : Block) :
    Indistinguishable (decblkAccept block s) (decblkAccept block t) := by
  cases hkv : s.kv with
  | true =>
    rw [decblkAccept_key block s hkv, decblkAccept_key block t (h.kv ▸ hkv)]
    exact { h with phase := rfl, rc := rfl, operation := ⟨Nat.zero_le _, hkv, rfl⟩ }
  | false =>
    rw [decblkAccept_noKey block s hkv, decblkAccept_noKey block t (h.kv ▸ hkv)]
    exact h.errorResponse hp .noKey

/-- A KS step writes one more entry from the shared halves; the sixteenth completes the file. -/
theorem ksRound (h : Indistinguishable s t) (hp : s.phase = .ks) {r : Round} (hn : s.rc.toNat = r.val) :
    Indistinguishable (ksRound r s) (ksRound r t) := by
  obtain ⟨-, hkv, hhalves, hkeys⟩ := (sameOperation_ks_iff hp).mp h.operation
  have hkeys' : ∀ q : Round, q.val < r.val + 1 → (Machine.ksRound r s).RK.get q = (Machine.ksRound r t).RK.get q := by
    intro q hq
    rw [ksRound_RK_get, ksRound_RK_get, hhalves]
    by_cases hqr : q = r
    · rw [if_pos hqr, if_pos hqr]
    · have hne : q.val ≠ r.val := fun e => hqr (Fin.ext e)
      rw [if_neg hqr, if_neg hqr]
      exact hkeys q (by omega)
  refine ⟨?phase, ?rc, ?kv, ?out, ?host, fun hkv' => ?RK, ?operation⟩
  case phase => rw [ksRound_phase, ksRound_phase, h.phase]
  case rc => rw [ksRound_rc, ksRound_rc]
  case kv => rw [ksRound_kv, ksRound_kv, h.kv]
  case out => rw [ksRound_out, ksRound_out, h.out]
  case host => rw [ksRound_host, ksRound_host, h.host]
  case RK =>
    have hlast : r.val = 15 := by simpa [hkv] using hkv'
    exact RoundKeySet.ext_get fun q => hkeys' q (by omega)
  case operation =>
    by_cases hlast : r.val = 15
    · exact sameOperation_idle (by rw [ksRound_phase, if_neg (by omega)])
    · have hphase : (Machine.ksRound r s).phase = .ks := by rw [ksRound_phase, if_pos (by omega), hp]
      rw [sameOperation_ks_iff hphase, ksRound_rc, countRound_toNat, ksRound_kv, if_neg hlast, ksRound_keyHalves,
        ksRound_keyHalves, hhalves]
      exact ⟨by omega, hkv, rfl, hkeys'⟩

/-- An RND step reads the shared round-key file and the shared halves. -/
theorem rndRound (h : Indistinguishable s t) (hp : s.phase = .rnd) (r : Round) :
    Indistinguishable (rndRound r s) (rndRound r t) := by
  obtain ⟨-, hkv, hhalves⟩ := (sameOperation_rnd_iff hp).mp h.operation
  have hRK := h.RK hkv
  have hkv' : (Machine.rndRound r s).kv = true := by rw [rndRound_kv, hkv]
  have hhalves' : (Machine.rndRound r s).halves = (Machine.rndRound r t).halves := by
    rw [rndRound_halves, rndRound_halves, hRK, hhalves]
  refine ⟨?phase, ?rc, ?kv, ?out, ?host, fun _ => ?RK, ?operation⟩
  case phase => rw [rndRound_phase, rndRound_phase, h.phase]
  case rc => rw [rndRound_rc, rndRound_rc]
  case kv => rw [rndRound_kv, rndRound_kv, h.kv]
  case out => rw [rndRound_out, rndRound_out, h.out]
  case host => rw [rndRound_host, rndRound_host, h.host]
  case RK => rw [rndRound_RK, rndRound_RK, hRK]
  case operation =>
    by_cases hlast : r.val = 15
    · have hphase : (Machine.rndRound r s).phase = .fin := by rw [rndRound_phase, if_neg (by omega)]
      exact (sameOperation_fin_iff hphase).mpr ⟨hkv', hhalves'⟩
    · have hphase : (Machine.rndRound r s).phase = .rnd := by rw [rndRound_phase, if_pos (by omega), hp]
      exact (sameOperation_rnd_iff hphase).mpr ⟨by rw [rndRound_rc, countRound_toNat]; omega, hkv', hhalves'⟩

/-- The FIN step answers from the shared halves. -/
theorem finRound (h : Indistinguishable s t) (hp : s.phase = .fin) : Indistinguishable (finRound s) (finRound t) := by
  obtain ⟨-, hhalves⟩ := (sameOperation_fin_iff hp).mp h.operation
  exact { h with
    phase := by rw [finRound_phase, finRound_phase]
    out := by rw [finRound_out, finRound_out, h.out, hhalves]
    operation := sameOperation_idle (finRound_phase s) }

/-! ### Every step keeps the relation -/

/-- Both machines accept the same word. -/
theorem acceptWord (h : Indistinguishable s t) (hp : s.phase = .idle) (w : CmdWord) : ∃ s' t',
    acceptWord w s = .next s' ∧ acceptWord w t = .next t' ∧ Indistinguishable s' t' := by
  refine ⟨_, _, acceptWord_idle w hp, acceptWord_idle w (h.phase ▸ hp), ?_⟩
  rcases decode w with e | key | block
  · exact h.errorResponse hp .illegalOp
  · exact h.ldkeyAccept key
  · exact h.decblkAccept hp block

theorem step (h : Indistinguishable s t) : ∃ s' t',
    step s = .next s' ∧ step t = .next t' ∧ Indistinguishable s' t' := by
  have hr' := h.rstPort
  have hp' := h.phase
  cases hr : s.rstPort with
  | true => exact ⟨_, _, step_reset hr, step_reset (hr' ▸ hr), h.hostTake.resetStep⟩
  | false =>
    rw [hr] at hr'
    cases hp : s.phase with
    | idle =>
      rw [hp] at hp'
      have hc' := h.cmdPort
      cases hc : s.cmdPort with
      | none => exact ⟨_, _, step_idle hr hp hc, step_idle hr'.symm hp'.symm (hc' ▸ hc), h.hostTick⟩
      | some w =>
        rw [step_accept hp hc, step_accept hp'.symm (hc' ▸ hc)]
        exact h.hostTake.acceptWord hp w
    | ks =>
      obtain ⟨hrc, -⟩ := (sameOperation_ks_iff hp).mp h.operation
      obtain ⟨r, hn⟩ := exists_round hrc
      exact ⟨_, _, step_ks hr hp hn, step_ks hr'.symm (hp' ▸ hp) (h.rc ▸ hn), h.hostTick.ksRound hp hn⟩
    | rnd =>
      obtain ⟨hrc, -⟩ := (sameOperation_rnd_iff hp).mp h.operation
      obtain ⟨r, hn⟩ := exists_round hrc
      exact ⟨_, _, step_rnd hr hp hn, step_rnd hr'.symm (hp' ▸ hp) (h.rc ▸ hn), h.hostTick.rndRound hp r⟩
    | fin => exact ⟨_, _, step_fin hr hp, step_fin hr'.symm (hp' ▸ hp), h.hostTick.finRound hp⟩

theorem runSteps (h : Indistinguishable s t) (k : Nat) : ∃ s' t',
    runSteps k s = .next s' ∧ runSteps k t = .next t' ∧ Indistinguishable s' t' := by
  induction k generalizing s t with
  | zero => exact ⟨s, t, rfl, rfl, h⟩
  | succ k ih =>
    obtain ⟨s', t', hs, ht, h'⟩ := h.step
    rw [runSteps_succ hs, runSteps_succ ht]
    exact ih h'

end Indistinguishable

/-- Idle, without a key and with an empty trace, nothing of the datapath is in use. -/
theorem launch_indistinguishable (d₁ d₂ : Datapath) (host : List HostItem) :
    Indistinguishable ((State.launch d₁).withHost host) ((State.launch d₂).withHost host) where
  phase := rfl
  rc := rfl
  kv := rfl
  out := rfl
  host := rfl
  RK hkv := by cases hkv
  operation := trivial

/-- Settles O48: the two launch states are indistinguishable, and stay so at every step. -/
theorem resetDatapathNeverReachesTheHost : Obligations.ResetDatapathNeverReachesTheHost := by
  unfold Obligations.ResetDatapathNeverReachesTheHost
  intro d₁ d₂ host k
  obtain ⟨t₁, t₂, h₁, h₂, h⟩ := (launch_indistinguishable d₁ d₂ host).runSteps k
  exact ⟨t₁, t₂, h₁, h₂, h.observe⟩

end Sys2Proof.Machine

/-! The host's byte strings (`spec/20_memory.md` rules R53, R54): what a read gives and a write sets, and blocks cut from
bytes and written back; the obligation O56 assembled from them. -/

namespace Sys2Proof.Machine

/-! ### `MemRead` and `MemWrite` (rule R53) -/

theorem memRead_getElem (input : List Byte) (addr n : Nat) {k : Nat} (hk : k < n) (h : addr + k < input.length) :
    (memRead input addr n)[k] = input[addr + k] := by
  simp [memRead, h]

theorem memWrite_of_ne_nil {bytes : List Byte} (h : bytes ≠ []) (output : List Byte) (addr : Nat) :
    memWrite output addr bytes =
      output.take addr ++ memGap output addr ++ bytes ++ output.drop (addr + bytes.length) := by
  obtain ⟨b, rest, rfl⟩ := List.exists_cons_of_ne_nil h
  rfl

/-- What a write puts before its bytes reaches exactly up to `addr`. -/
theorem length_take_append_memGap (output : List Byte) (addr : Nat) :
    (output.take addr ++ memGap output addr).length = addr := by
  simp [memGap]
  omega

/-- The bytes written stand at `addr` and after it. -/
theorem memWrite_getElem?_written (output bytes : List Byte) (addr : Nat) {k : Nat} (hk : k < bytes.length) :
    (memWrite output addr bytes)[addr + k]? = bytes[k]? := by
  have hpre := length_take_append_memGap output addr
  rw [memWrite_of_ne_nil (List.ne_nil_of_length_pos (by omega)),
    List.getElem?_append_left (by rw [List.length_append, hpre]; omega),
    List.getElem?_append_right (by rw [hpre]; omega), hpre, Nat.add_sub_cancel_left]

/-- Every other byte of the output stays. -/
theorem memWrite_getElem?_kept (output bytes : List Byte) (addr : Nat) {k : Nat} (hk : k < output.length)
    (hout : k < addr ∨ addr + bytes.length ≤ k) : (memWrite output addr bytes)[k]? = output[k]? := by
  have hpre := length_take_append_memGap output addr
  by_cases hnil : bytes = []
  · rw [hnil, memWrite]
  · rw [memWrite_of_ne_nil hnil]
    obtain hlow | hhigh := hout
    · rw [List.getElem?_append_left (by rw [List.length_append, hpre]; omega),
        List.getElem?_append_left (by rw [hpre]; exact hlow),
        List.getElem?_append_left (by rw [List.length_take]; omega), List.getElem?_take_of_lt hlow]
    · rw [List.getElem?_append_right (by rw [List.length_append, hpre]; exact hhigh), List.length_append, hpre,
        List.getElem?_drop, Nat.add_sub_cancel' hhigh]

/-- Settles O56: the bytes read, the bytes written, and the bytes kept. -/
theorem hostReadsAndWritesMoveTheNamedBytes : Obligations.HostReadsAndWritesMoveTheNamedBytes := by
  unfold Obligations.HostReadsAndWritesMoveTheNamedBytes
  exact ⟨fun input addr n _ hk h => memRead_getElem input addr n hk h,
    fun output bytes addr _ hk => memWrite_getElem?_written output bytes addr hk,
    fun output bytes addr _ hk hout => memWrite_getElem?_kept output bytes addr hk hout⟩

/-! ### Blocks as bytes -/

@[simp] theorem bytesOfBlocks_nil : bytesOfBlocks [] = [] := rfl

theorem bytesOfBlocks_cons (v : Block) (vs : List Block) :
    bytesOfBlocks (v :: vs) = (bytesOfBlock v).toList ++ bytesOfBlocks vs := List.flatMap_cons

theorem bytesOfBlocks_concat (vs : List Block) (v : Block) :
    bytesOfBlocks (vs ++ [v]) = bytesOfBlocks vs ++ (bytesOfBlock v).toList := by
  rw [bytesOfBlocks, List.flatMap_append, List.flatMap_singleton, bytesOfBlocks]

theorem length_bytesOfBlock_toList (v : Block) : (bytesOfBlock v).toList.length = 8 := Vector.length_toList

theorem length_bytesOfBlocks (vs : List Block) : (bytesOfBlocks vs).length = 8 * vs.length := by
  induction vs with
  | nil => rfl
  | cons v vs ih =>
    rw [bytesOfBlocks_cons, List.length_append, ih, length_bytesOfBlock_toList, List.length_cons]
    omega

theorem bytesOfBlock_injective : Function.Injective bytesOfBlock :=
  Function.LeftInverse.injective blockOfBytes_bytesOfBlock

/-- Different block lists are different byte strings: every block is eight bytes. -/
theorem bytesOfBlocks_injective : Function.Injective bytesOfBlocks := by
  intro vs
  induction vs with
  | nil =>
    intro ws h
    have hlen := congrArg List.length h
    rw [length_bytesOfBlocks, length_bytesOfBlocks, List.length_nil] at hlen
    exact (List.eq_nil_of_length_eq_zero (by omega)).symm
  | cons v vs ih =>
    intro ws h
    cases ws with
    | nil =>
      have hlen := congrArg List.length h
      rw [length_bytesOfBlocks, length_bytesOfBlocks, List.length_nil, List.length_cons] at hlen
      omega
    | cons w ws =>
      rw [bytesOfBlocks_cons, bytesOfBlocks_cons] at h
      obtain ⟨hhead, htail⟩ := List.append_inj h (by rw [length_bytesOfBlock_toList, length_bytesOfBlock_toList])
      rw [bytesOfBlock_injective (Vector.toList_inj.mp hhead), ih htail]

/-- Rule R203: eight bytes read inside the input are a slice of it. -/
theorem memRead_toList (input : List Byte) {addr n : Nat} (h : addr + n ≤ input.length) :
    (memRead input addr n).toList = (input.drop addr).take n := by
  apply List.ext_getElem
  · rw [Vector.length_toList, List.length_take, List.length_drop]; omega
  · intro k hk _
    rw [Vector.length_toList] at hk
    rw [Vector.getElem_toList, memRead_getElem input addr n hk (by omega), List.getElem_take, List.getElem_drop]

theorem length_cutBlocks (input : List Byte) : (cutBlocks input).length = input.length / 8 := by
  rw [cutBlocks, List.length_map, List.length_range]

/-- Slices of eight bytes, one after the other, are the bytes up to the end of the last one. -/
theorem bytesOfBlocks_cutBlocks_upTo (input : List Byte) {m : Nat} (h : 8 * m ≤ input.length) :
    bytesOfBlocks ((List.range m).map fun i => blockOfBytes (memRead input (8 * i) 8)) = input.take (8 * m) := by
  induction m with
  | zero => rfl
  | succ m ih =>
    rw [List.range_succ, List.map_append, List.map_singleton, bytesOfBlocks_concat, ih (by omega),
      bytesOfBlock_blockOfBytes, memRead_toList input (by omega), Nat.mul_succ, List.take_add]

theorem bytesOfBlocks_cutBlocks {input : List Byte} (h : input.length % 8 = 0) :
    bytesOfBlocks (cutBlocks input) = input := by
  rw [cutBlocks, bytesOfBlocks_cutBlocks_upTo input (Nat.mul_div_le _ _), List.take_of_length_le]
  omega

theorem cutBlocks_bytesOfBlocks (vs : List Block) : cutBlocks (bytesOfBlocks vs) = vs :=
  bytesOfBlocks_injective (bytesOfBlocks_cutBlocks (by rw [length_bytesOfBlocks]; omega))

/-- Rule R204: the writes of the blocks, in order and without gaps, are the blocks' bytes. -/
theorem writeBlocks_eq_bytesOfBlocks (vs : List Block) : writeBlocks vs = bytesOfBlocks vs := by
  have upTo : ∀ m ≤ vs.length, (List.range m).foldl
      (fun out i => memWrite out (8 * i) (bytesOfBlock (vs.getD i 0#64)).toList) [] = bytesOfBlocks (vs.take m) := by
    intro m
    induction m with
    | zero => exact fun _ => rfl
    | succ m ih =>
      intro hm
      have hlen : (bytesOfBlocks (vs.take m)).length = 8 * m := by
        rw [length_bytesOfBlocks, List.length_take, Nat.min_eq_left (by omega)]
      rw [List.range_succ, List.foldl_concat, ih (by omega), ← hlen, memWrite_end,
        List.getD_eq_getElem _ _ (by omega : m < vs.length), ← bytesOfBlocks_concat, List.take_append_getElem]
  rw [writeBlocks, upTo _ (Nat.le_refl _), List.take_length]

end Sys2Proof.Machine

/-! Streams at the function level (`spec/44_padding_policy.md`, `spec/45_stream_processor.md` rules R200 to R206): the
output of a run and the round trip; the obligations O51 and O52 assembled from them. -/

namespace Sys2Proof.Machine

/-- Rules R204, R205: the blocks but the last as bytes, then what the padding check leaves of the last. -/
theorem finishStream_concat (init : List Block) (last : Block) :
    finishStream (init ++ [last]) = (stripPadding (bytesOfBlock last)).map (bytesOfBlocks init ++ ·) := by
  have hlen : 8 * ((init ++ [last]).length - 1) = (bytesOfBlocks init).length := by
    rw [length_bytesOfBlocks, List.length_append, List.length_singleton, Nat.add_sub_cancel]
  rw [finishStream, List.getLastD_concat, List.dropLast_concat, hlen, writeBlocks_eq_bytesOfBlocks]
  cases stripPadding (bytesOfBlock last) with
  | error e => rfl
  | ok tail => simp only [memWrite_end]; rfl

theorem inputLengthOk_iff (input : List Byte) :
    inputLengthOk input = true ↔ input.length ≠ 0 ∧ input.length % 8 = 0 := by
  rw [inputLengthOk, Bool.and_eq_true, bne_iff_ne, beq_iff_eq]

/-- A valid input has a last block. -/
theorem exists_cutBlocks_eq_concat {input : List Byte} (h : inputLengthOk input = true) :
    ∃ init last, cutBlocks input = init ++ [last] := by
  obtain ⟨hpos, hmod⟩ := (inputLengthOk_iff input).mp h
  have hlen := length_cutBlocks input
  obtain hnil | ⟨init, last, hcut⟩ := List.eq_nil_or_concat (cutBlocks input)
  · rw [hnil, List.length_nil] at hlen
    omega
  · exact ⟨init, last, hcut.trans List.concat_eq_append⟩

/-- Settles O51: a run that succeeds has passed both checks; the lengths of its output's two parts add up. -/
theorem streamOutputIsShorterByThePadCount : Obligations.StreamOutputIsShorterByThePadCount := by
  unfold Obligations.StreamOutputIsShorterByThePadCount
  intro key input out hok
  have hlen : inputLengthOk input = true := by
    by_contra hbad
    rw [decryptStream_of_badLength key (Bool.eq_false_iff.mpr hbad)] at hok
    cases hok
  obtain ⟨hpos, hmod⟩ := (inputLengthOk_iff input).mp hlen
  obtain ⟨init, last, hcut⟩ := exists_cutBlocks_eq_concat hlen
  refine ⟨last, by rw [hcut, List.getLast?_concat], ?_⟩
  rw [decryptStream_of_lengthOk key hlen, hcut, List.map_append, List.map_singleton, finishStream_concat] at hok
  generalize bytesOfBlock (decryptBlock last (derive (blockOfBytes key))) = b at hok ⊢
  by_cases hvalid : PaddingValid b
  · rw [stripPadding_of_valid hvalid] at hok
    obtain ⟨hlow, hhigh, -⟩ := hvalid
    have hblocks := length_cutBlocks input
    rw [hcut, List.length_append, List.length_singleton] at hblocks
    rw [← Except.ok.inj hok, List.length_append, length_bytesOfBlocks, List.length_map, List.length_take,
      Vector.length_toList]
    omega
  · rw [stripPadding_of_not_valid hvalid] at hok
    cases hok

/-! ### The round trip (rule R206) -/

theorem padCountFor_range (len : Nat) : 1 ≤ padCountFor len ∧ padCountFor len ≤ 8 := by
  rw [padCountFor]
  omega

theorem length_padPlaintext (plain : List Byte) :
    (padPlaintext plain).length = plain.length + padCountFor plain.length := by
  rw [padPlaintext, List.length_append, List.length_replicate]

/-- A padded plaintext is a valid input. -/
theorem inputLengthOk_padPlaintext (plain : List Byte) : inputLengthOk (padPlaintext plain) = true := by
  rw [inputLengthOk_iff, length_padPlaintext, padCountFor]
  omega

/-- Rules R190 to R192: eight bytes that end in `n` bytes of value `n` lose exactly those. -/
theorem stripPadding_of_padded {b : Vector Byte 8} {front : List Byte} {n : Nat} (hlow : 1 ≤ n)
    (hlen : front.length + n = 8) (hb : b.toList = front ++ List.replicate n (BitVec.ofNat 8 n)) :
    stripPadding b = .ok front := by
  have hpad : ∀ k : Fin 8, 8 - n ≤ k.val → (b.get k).toNat = n := by
    intro k hk
    have hget : b.toList[k.val]? = some (BitVec.ofNat 8 n) := by
      rw [hb, List.getElem?_append_right (by omega), List.getElem?_replicate, if_pos (by omega)]
    obtain ⟨_, hentry⟩ := List.getElem?_eq_some_iff.mp hget
    rw [Vector.getElem_toList] at hentry
    rw [Vector.get_eq_getElem, hentry, BitVec.toNat_ofNat]
    omega
  have hcount : padCount b = n := hpad 7 (by simp; omega)
  have hvalid : PaddingValid b := by
    rw [PaddingValid, hcount]
    exact ⟨hlow, by omega, hpad⟩
  rw [stripPadding_of_valid hvalid, hcount, hb, List.take_append_of_le_length (by omega),
    List.take_of_length_le (by omega)]

/-- The padded plaintext, cut into blocks, gives the plaintext back. -/
theorem finishStream_cutBlocks_padPlaintext (plain : List Byte) :
    finishStream (cutBlocks (padPlaintext plain)) = .ok plain := by
  have hok := inputLengthOk_padPlaintext plain
  obtain ⟨-, hmod⟩ := (inputLengthOk_iff _).mp hok
  obtain ⟨init, last, hcut⟩ := exists_cutBlocks_eq_concat hok
  have hbytes := bytesOfBlocks_cutBlocks hmod
  rw [hcut, bytesOfBlocks_concat, padPlaintext, ← List.take_append_drop (8 * (plain.length / 8)) plain,
    List.append_assoc, List.take_append_drop] at hbytes
  have hrest : (plain.drop (8 * (plain.length / 8))).length + padCountFor plain.length = 8 := by
    rw [List.length_drop, padCountFor]
    omega
  obtain ⟨hinit, hlast⟩ := List.append_inj' hbytes
    (by rw [length_bytesOfBlock_toList, List.length_append, List.length_replicate, hrest])
  rw [hcut, finishStream_concat, stripPadding_of_padded (padCountFor_range _).1 hrest hlast, hinit]
  exact congrArg Except.ok (List.take_append_drop _ plain)

/-- Settles O52: cutting, writing and padding are undone one by one, and each block's decryption undoes its encryption. -/
theorem streamRoundTripRecoversThePlaintext : Obligations.StreamRoundTripRecoversThePlaintext := by
  unfold Obligations.StreamRoundTripRecoversThePlaintext
  intro key plain
  obtain ⟨hpos, hmod⟩ := (inputLengthOk_iff _).mp (inputLengthOk_padPlaintext plain)
  have hok : inputLengthOk (encryptStream key plain) = true := by
    rw [inputLengthOk_iff, encryptStream, length_bytesOfBlocks, List.length_map, length_cutBlocks]
    omega
  have hinverse : (fun c => decryptBlock c (derive (blockOfBytes key))) ∘
      (fun p => encryptBlock p (derive (blockOfBytes key))) = id :=
    funext fun p => decryptBlock_encryptBlock (derive (blockOfBytes key)) p
  rw [decryptStream_of_lengthOk key hok, encryptStream, cutBlocks_bytesOfBlocks, List.map_map, hinverse, List.map_id]
  exact finishStream_cutBlocks_padPlaintext plain

end Sys2Proof.Machine

/-! The driver over the hardware (`spec/45_stream_processor.md` rule R208) and the expansion of `DECSTREAM`
(`spec/30_encoding.md` rule R78); the obligations O54 and O55 assembled from them. -/

namespace Sys2Proof.Machine

variable {s t u : State} {w : CmdWord}

/-- Settles O55: the length check is the condition, and each script item drives its own command word. -/
theorem decstreamExpandsToTheDriversCommands : Obligations.DecstreamExpandsToTheDriversCommands := by
  unfold Obligations.DecstreamExpandsToTheDriversCommands
  intro d
  refine ⟨fun h => ?commands, fun h => ?none⟩
  case commands =>
    rw [expandStream, if_pos ((inputLengthOk_iff _).mpr h), streamCommands, List.map_cons, List.map_cons,
      List.map_map, List.map_map]
    rfl
  case none => rw [expandStream, (inputLengthOk_eq_false_iff _).mpr h, if_neg Bool.false_ne_true]

/-! ### Waiting -/

theorem awaitReady_idle (fuel : Nat) (hp : s.phase = .idle) : awaitReady fuel s = some s := by
  have hready : s.cmdReady = true := State.cmdReady_iff.mpr hp
  cases fuel <;> rw [awaitReady, if_pos hready]

theorem awaitReady_busy (fuel : Nat) (hp : s.phase ≠ .idle) (h : step s = .next t) :
    awaitReady (fuel + 1) s = awaitReady fuel t := by
  rw [awaitReady, if_neg (mt State.cmdReady_iff.mp hp), h]

/-- From a state that meets the invariant, with nothing offered, the machine is ready within the steps left. -/
theorem exists_awaitReady {fuel : Nat} (hs : s.Inv) (hh : s.host = []) (hfuel : busyRemaining s ≤ fuel) :
    ∃ t, awaitReady fuel s = some t ∧ t.phase = .idle := by
  induction fuel generalizing s with
  | zero =>
    have hp := idle_of_busyRemaining_eq_zero hs (Nat.le_zero.mp hfuel)
    exact ⟨s, awaitReady_idle 0 hp, hp⟩
  | succ fuel ih =>
    by_cases hp : s.phase = .idle
    · exact ⟨s, awaitReady_idle _ hp, hp⟩
    · have hr : s.rstPort = false := by rw [State.rstPort_eq_head, hh]; rfl
      obtain ⟨t, ht⟩ := exists_step_of_inv hs
      have hleft := busyRemaining_step hr hp ht
      have hhost : t.host = [] := by rw [host_of_busy_step hr hp ht, hh, hostAfterTick]
      rw [awaitReady_busy fuel hp ht]
      exact ih (step_keeps_inv hs ht) hhost (by omega)

/-- A run that is silent up to its last step, which answers, is what the driver waits for. -/
theorem awaitResponse_of_run {m n fuel : Nat} (hfuel : n + 1 ≤ fuel) (hrun : runSteps (n + 1) s = .next t)
    (hout : t.out.length = m + 1)
    (hsilent : ∀ k, 0 < k → k < n + 1 → ∃ u, runSteps k s = .next u ∧ u.out.length = m) :
    awaitResponse fuel m s = (t.out.getLast?, t) := by
  induction n generalizing s fuel with
  | zero =>
    obtain ⟨fuel, rfl⟩ : ∃ f, fuel = f + 1 := ⟨fuel - 1, by omega⟩
    rw [runSteps_one] at hrun
    rw [awaitResponse, hrun]
    exact if_pos hout
  | succ n ih =>
    obtain ⟨fuel, rfl⟩ : ∃ f, fuel = f + 1 := ⟨fuel - 1, by omega⟩
    obtain ⟨u, hu, hlen⟩ := hsilent 1 (by omega) (by omega)
    rw [runSteps_one] at hu
    rw [runSteps_succ hu] at hrun
    have hne : ¬ u.out.length = m + 1 := by omega
    rw [awaitResponse, hu]
    refine (if_neg hne).trans (ih (by omega) hrun fun k hpos hk => ?_)
    obtain ⟨v, hv, hvlen⟩ := hsilent (k + 1) (by omega) (by omega)
    rw [runSteps_succ hu] at hv
    exact ⟨v, hv, hvlen⟩

/-! ### Issuing -/

theorem commandSteps_range (w : CmdWord) (kv : Bool) : 1 ≤ commandSteps w kv ∧ commandSteps w kv ≤ 18 := by
  rw [commandSteps_eq]
  split
  · omega
  · split <;> omega

/-- A command issued once the machine is ready has its whole effect and its own response. -/
theorem issue_of_ready (hready : awaitReady readyFuel (s.withHost []) = some t) (hp : t.phase = .idle) :
    issue w s = ((transact w t).out.getLast?, (transact w t).withHost []) := by
  obtain ⟨hlow, hhigh⟩ := commandSteps_range w t.kv
  obtain ⟨n, hn⟩ : ∃ n, commandSteps w t.kv = n + 1 := ⟨commandSteps w t.kv - 1, by omega⟩
  obtain ⟨r, hr⟩ := exists_transact_out w t
  have hrun : runSteps (n + 1) (t.withHost [.command w]) = .next ((transact w t).withHost []) := by
    rw [← hn]; exact runSteps_command_then w [] hp
  have hsilent : ∀ k, 0 < k → k < n + 1 →
      ∃ u, runSteps k (t.withHost [.command w]) = .next u ∧ u.out.length = t.out.length := by
    intro k hpos hk
    obtain ⟨u, hu, hout, -⟩ := runSteps_command_busy (s := t.withHost [.command w]) (w := w) hp rfl
      (busyResetFree_commands _ []) hpos (by rw [State.withHost_kv, hn]; exact hk)
    exact ⟨u, hu, by rw [hout, State.withHost_out]⟩
  have hlen : ((transact w t).withHost []).out.length = t.out.length + 1 := by
    rw [State.withHost_out, hr, List.length_append, List.length_singleton]
  rw [issue, hready]
  exact awaitResponse_of_run (by rw [responseFuel]; omega) hrun hlen hsilent

/-- The response to a completed command is the one the driver expects. -/
theorem expectOk_rspWord (v : Block) : expectOk (some (rspWord .ok v)) = some v := by
  rw [expectOk, rspSt_rspWord, if_pos rfl, rspVal_rspWord]

/-- With a key loaded, a block issued to an idle machine is answered with its decryption. -/
theorem issue_decblk (c : Block) (hp : s.phase = .idle) (hkv : s.kv = true) :
    issue (encode (.decblk c)) s =
      (some (rspWord .ok (decryptBlock c s.RK)), (decblkTransaction c s).withHost []) := by
  rw [issue_of_ready (awaitReady_idle _ hp) hp, transact_withHost, transact_encode_decblk, State.withHost_out,
    decblkTransaction_key c hkv, List.getLast?_concat]
  rfl

/-- The blocks of a stream, issued one after the other to an idle machine with a key loaded. -/
theorem exists_issueBlocks (blocks : List Block) (hp : s.phase = .idle) (hkv : s.kv = true) :
    ∃ u, issueBlocks blocks s = (some (blocks.map fun c => decryptBlock c s.RK), u) ∧
      u.out = s.out ++ blocks.map fun c => rspWord .ok (decryptBlock c s.RK) := by
  induction blocks generalizing s with
  | nil => exact ⟨s, rfl, by simp⟩
  | cons c rest ih =>
    have hc := decblkTransaction_key c hkv
    obtain ⟨u, hu, hout⟩ := ih (s := (decblkTransaction c s).withHost []) (by rw [hc]; rfl) (by rw [hc]; exact hkv)
    have hRK : ((decblkTransaction c s).withHost []).RK = s.RK := by rw [hc]; rfl
    have hout' : ((decblkTransaction c s).withHost []).out = s.out ++ [rspWord .ok (decryptBlock c s.RK)] := by
      rw [hc]; rfl
    rw [hRK] at hu hout
    refine ⟨u, ?_, by rw [hout, hout', List.map_cons, List.append_assoc, List.singleton_append]⟩
    rw [issueBlocks, issue_decblk c hp hkv]
    simp only [expectOk_rspWord, hu, List.map_cons]

/-- The driver's run once the machine is ready: the LDKEY loads the key, the blocks follow, and the result is that of
`decryptStream`. -/
theorem exists_driveStream (key : Vector Byte 8) {input : List Byte}
    (hready : awaitReady readyFuel (s.withHost []) = some t) (hp : t.phase = .idle)
    (hlen : inputLengthOk input = true) :
    ∃ u, driveStream key input s = (decryptStream key input, u) ∧
      u.out = t.out ++ 0x000000000000000000#72 ::
        (cutBlocks input).map fun c => 0x00#8 ++ decryptBlock c (derive (blockOfBytes key)) := by
  have hissue : issue (encode (.ldkey (blockOfBytes key))) s =
      (some (rspWord .ok 0#64), (ldkeyTransaction (blockOfBytes key) t).withHost []) := by
    rw [issue_of_ready hready hp, transact_ldkey (decode_encode (.ldkey (blockOfBytes key)))]
    congr 1
    rw [ldkeyTransaction, State.respond_out, List.getLast?_concat]
  obtain ⟨u, hu, hout⟩ := exists_issueBlocks (s := (ldkeyTransaction (blockOfBytes key) t).withHost [])
    (cutBlocks input) rfl rfl
  have hRK : ((ldkeyTransaction (blockOfBytes key) t).withHost []).RK = derive (blockOfBytes key) := rfl
  rw [hRK] at hu hout
  refine ⟨u, ?result, ?trace⟩
  case result =>
    rw [driveStream, if_pos hlen, hissue, decryptStream_of_lengthOk key hlen]
    simp only [expectOk_rspWord, hu]
  case trace =>
    rw [hout, State.withHost_out, ldkeyTransaction, State.respond_out, List.append_assoc]
    rfl

/-- Settles O54: from a busy state the driver first waits, within the steps `busyRemaining_le` allows; from an idle one it
starts at once, so the trace is the state's own. -/
theorem driverRunsTheStreamOnTheHardware : Obligations.DriverRunsTheStreamOnTheHardware := by
  unfold Obligations.DriverRunsTheStreamOnTheHardware
  intro key input s hs
  refine ⟨?result, fun hp hlen => ?trace⟩
  case result =>
    cases hlen : inputLengthOk input with
    | false => rw [driveStream_of_badLength key s hlen, decryptStream_of_badLength key hlen]
    | true =>
      obtain ⟨t, hready, hp⟩ := exists_awaitReady (s := s.withHost []) (fuel := readyFuel) hs rfl (busyRemaining_le _)
      obtain ⟨u, hu, -⟩ := exists_driveStream key hready hp hlen
      rw [hu]
  case trace =>
    obtain ⟨u, hu, hout⟩ := exists_driveStream key (awaitReady_idle readyFuel (s := s.withHost []) hp) hp hlen
    rw [hu, hout, State.withHost_out]

end Sys2Proof.Machine
